-- ==== Sys2Proof/Word.lean ====
section
/-! DEFINITION. The data widths of SHA256-CORE: bytes, words, the 64-byte block and the eight-word record. -/

namespace Sys2Proof

/-- An 8-bit unsigned value (00_scope.md R10). -/
abbrev Byte := BitVec 8

/-- A 32-bit unsigned value (00_scope.md R7, R10). -/
abbrev Word := BitVec 32

/-- A 64-byte block, byte 0 first (00_scope.md R7, R15). -/
abbrev Block := Vector Byte 64

/-- Eight words in order: the hash state H[0..7] (10_state.md R21) and the working registers
a..h = WV[0..7] (R22). Field `a` is element 0 and field `h` is element 7. -/
structure EightWords where
  a : Word
  b : Word
  c : Word
  d : Word
  e : Word
  f : Word
  g : Word
  h : Word
  deriving DecidableEq, Repr

end Sys2Proof
end

