-- ==== Sys2Proof/Syntax.lean ====
section
/-! DEFINITION. The host transactions of SHA256-CORE, one constructor per row of opcode_table.json
(30_encoding.md R74). A constructor's arguments are exactly the T40 bits its row does not fix, the ignored
ones included, so that a 40-bit word and a transaction are the same thing said twice (R78). -/

namespace Sys2Proof

/-- A host transaction. Argument names: `ign`, the ignored WDATA bits; `wdata`, all of WDATA; `offLo`,
OFFSET[2] of a two-offset row; `rw`, the RW bit of a bus error. -/
inductive Instr where
  /-- WR.CTRL.NOP (43_sequencer.md R174); `ign` = WDATA[31:4]. -/
  | wrCtrlNop (ign : BitVec 28)
  /-- WR.CTRL.INIT (43_sequencer.md R175); `ign` = WDATA[31:4]. -/
  | wrCtrlInit (ign : BitVec 28)
  /-- WR.CTRL.FINALIZE (41_padder.md R110); `ign` = WDATA[31:4]. -/
  | wrCtrlFinalize (ign : BitVec 28)
  /-- WR.CTRL.RSV3 (43_sequencer.md R176); `ign` = WDATA[31:4]. -/
  | wrCtrlRsv3 (ign : BitVec 28)
  /-- WR.CTRL.RSV4_7 (43_sequencer.md R176); `ign` = WDATA[31:4], `lo` = CMD[1:0]. -/
  | wrCtrlRsv4_7 (ign : BitVec 28) (lo : BitVec 2)
  /-- WR.CTRL.RSV8_F (43_sequencer.md R176); `ign` = WDATA[31:4], `lo` = CMD[2:0]. -/
  | wrCtrlRsv8_F (ign : BitVec 28) (lo : BitVec 3)
  /-- WR.DATA_WORD (41_padder.md R106). -/
  | wrDataWord (wdata : Word)
  /-- WR.DATA_BYTE (41_padder.md R105). -/
  | wrDataByte (wdata : Word)
  /-- WR.STATUS (44_register_access.md R207). -/
  | wrStatus (wdata : Word)
  /-- WR.BITLEN (44_register_access.md R207); `offLo` = 0 BITLEN_HI, 1 BITLEN_LO. -/
  | wrBitlen (offLo : BitVec 1) (wdata : Word)
  /-- WR.RSV (44_register_access.md R207); `offLo` = 0 offset 0x18, 1 offset 0x1C. -/
  | wrRsv (offLo : BitVec 1) (wdata : Word)
  /-- WR.DIGEST (44_register_access.md R207); `i` = OFFSET[4:2]. -/
  | wrDigest (i : BitVec 3) (wdata : Word)
  /-- RD.CTRL (44_register_access.md R205). -/
  | rdCtrl (wdata : Word)
  /-- RD.STATUS (44_register_access.md R201). -/
  | rdStatus (wdata : Word)
  /-- RD.DATA_WORD (44_register_access.md R205). -/
  | rdDataWord (wdata : Word)
  /-- RD.DATA_BYTE (44_register_access.md R205). -/
  | rdDataByte (wdata : Word)
  /-- RD.BITLEN_HI (44_register_access.md R202). -/
  | rdBitlenHi (wdata : Word)
  /-- RD.BITLEN_LO (44_register_access.md R203). -/
  | rdBitlenLo (wdata : Word)
  /-- RD.RSV (44_register_access.md R206); `offLo` = 0 offset 0x18, 1 offset 0x1C. -/
  | rdRsv (offLo : BitVec 1) (wdata : Word)
  /-- RD.DIGEST (44_register_access.md R204); `i` = OFFSET[4:2]. -/
  | rdDigest (i : BitVec 3) (wdata : Word)
  /-- BUSERR.SIZE (44_register_access.md R209): SZ4 = 0. -/
  | busErrSize (rw : BitVec 1) (offset : BitVec 6) (wdata : Word)
  /-- BUSERR.ALIGN_ODD (44_register_access.md R209): OFFSET[0] = 1; `offHi` = OFFSET[5:1]. -/
  | busErrAlignOdd (rw : BitVec 1) (offHi : BitVec 5) (wdata : Word)
  /-- BUSERR.ALIGN_2 (44_register_access.md R209): OFFSET[1:0] = 10; `offHi` = OFFSET[5:2]. -/
  | busErrAlign2 (rw : BitVec 1) (offHi : BitVec 4) (wdata : Word)
  deriving DecidableEq, Repr

end Sys2Proof
end

