-- ==== Sys2Proof/WellFormed.lean ====
section
/-! DEFINITION. Which transactions are in the canonical T40 form (30_encoding.md R71). -/

namespace Sys2Proof

/-- The transaction is a read whose WDATA bits are not all 0. -/
def Instr.readCarriesData : Instr → Bool
  | .wrCtrlNop _ => false
  | .wrCtrlInit _ => false
  | .wrCtrlFinalize _ => false
  | .wrCtrlRsv3 _ => false
  | .wrCtrlRsv4_7 _ _ => false
  | .wrCtrlRsv8_F _ _ => false
  | .wrDataWord _ => false
  | .wrDataByte _ => false
  | .wrStatus _ => false
  | .wrBitlen _ _ => false
  | .wrRsv _ _ => false
  | .wrDigest _ _ => false
  | .rdCtrl w => w != 0
  | .rdStatus w => w != 0
  | .rdDataWord w => w != 0
  | .rdDataByte w => w != 0
  | .rdBitlenHi w => w != 0
  | .rdBitlenLo w => w != 0
  | .rdRsv _ w => w != 0
  | .rdDigest _ w => w != 0
  | .busErrSize rw _ w => rw == 0 && w != 0
  | .busErrAlignOdd rw _ w => rw == 0 && w != 0
  | .busErrAlign2 rw _ w => rw == 0 && w != 0

/-- Canonical T40 (30_encoding.md R71): WDATA is "0 for a read". The one check a transaction's types leave
open. A read that fails it still decodes and runs as its row says: "reads ignore these bits". -/
def Instr.wf (i : Instr) : Bool := !i.readCarriesData

end Sys2Proof
end

