-- ==== Sys2Proof/Decode.lean ====
section
/-! DEFINITION. The T40 notation (30_encoding.md R71): the opcode table (R74), the decoder, total on every
40-bit word, and the encoder. -/

namespace Sys2Proof

/-! ## The opcode table -/

/-- One row of opcode_table.json: a T40 word belongs to it when `word &&& mask = pattern` (R71). -/
structure OpcodeRow where
  mnemonic : String
  pattern : BitVec 40
  mask : BitVec 40
  deriving DecidableEq, Repr

/-- "A transaction belongs to a row when `T & mask = match`" (30_encoding.md R71). -/
def OpcodeRow.matches (r : OpcodeRow) (t : BitVec 40) : Bool := t &&& r.mask == r.pattern

/-- The write rows of 30_encoding.md R74, in its order. -/
def writeRows : List OpcodeRow :=
  [ ⟨"WR.CTRL.NOP", 0xc000000000, 0xff0000000f⟩,
    ⟨"WR.CTRL.INIT", 0xc000000001, 0xff0000000f⟩,
    ⟨"WR.CTRL.FINALIZE", 0xc000000002, 0xff0000000f⟩,
    ⟨"WR.CTRL.RSV3", 0xc000000003, 0xff0000000f⟩,
    ⟨"WR.CTRL.RSV4_7", 0xc000000004, 0xff0000000c⟩,
    ⟨"WR.CTRL.RSV8_F", 0xc000000008, 0xff00000008⟩,
    ⟨"WR.DATA_WORD", 0xc800000000, 0xff00000000⟩,
    ⟨"WR.DATA_BYTE", 0xcc00000000, 0xff00000000⟩,
    ⟨"WR.STATUS", 0xc400000000, 0xff00000000⟩,
    ⟨"WR.BITLEN", 0xd000000000, 0xfb00000000⟩,
    ⟨"WR.RSV", 0xd800000000, 0xfb00000000⟩,
    ⟨"WR.DIGEST", 0xe000000000, 0xe300000000⟩ ]

/-- The read rows of 30_encoding.md R74, in its order. -/
def readRows : List OpcodeRow :=
  [ ⟨"RD.CTRL", 0x4000000000, 0xff00000000⟩,
    ⟨"RD.STATUS", 0x4400000000, 0xff00000000⟩,
    ⟨"RD.DATA_WORD", 0x4800000000, 0xff00000000⟩,
    ⟨"RD.DATA_BYTE", 0x4c00000000, 0xff00000000⟩,
    ⟨"RD.BITLEN_HI", 0x5000000000, 0xff00000000⟩,
    ⟨"RD.BITLEN_LO", 0x5400000000, 0xff00000000⟩,
    ⟨"RD.RSV", 0x5800000000, 0xfb00000000⟩,
    ⟨"RD.DIGEST", 0x6000000000, 0xe300000000⟩ ]

/-- The bus error rows of 30_encoding.md R74, in its order. -/
def busErrRows : List OpcodeRow :=
  [ ⟨"BUSERR.SIZE", 0x0000000000, 0x4000000000⟩,
    ⟨"BUSERR.ALIGN_ODD", 0x4100000000, 0x4100000000⟩,
    ⟨"BUSERR.ALIGN_2", 0x4200000000, 0x4300000000⟩ ]

/-- The whole table of 30_encoding.md R74, in its order. -/
def opcodeTable : List OpcodeRow := writeRows ++ readRows ++ busErrRows

/-- The table's mnemonic of a transaction. -/
def Instr.mnemonic : Instr → String
  | .wrCtrlNop _ => "WR.CTRL.NOP"
  | .wrCtrlInit _ => "WR.CTRL.INIT"
  | .wrCtrlFinalize _ => "WR.CTRL.FINALIZE"
  | .wrCtrlRsv3 _ => "WR.CTRL.RSV3"
  | .wrCtrlRsv4_7 _ _ => "WR.CTRL.RSV4_7"
  | .wrCtrlRsv8_F _ _ => "WR.CTRL.RSV8_F"
  | .wrDataWord _ => "WR.DATA_WORD"
  | .wrDataByte _ => "WR.DATA_BYTE"
  | .wrStatus _ => "WR.STATUS"
  | .wrBitlen _ _ => "WR.BITLEN"
  | .wrRsv _ _ => "WR.RSV"
  | .wrDigest _ _ => "WR.DIGEST"
  | .rdCtrl _ => "RD.CTRL"
  | .rdStatus _ => "RD.STATUS"
  | .rdDataWord _ => "RD.DATA_WORD"
  | .rdDataByte _ => "RD.DATA_BYTE"
  | .rdBitlenHi _ => "RD.BITLEN_HI"
  | .rdBitlenLo _ => "RD.BITLEN_LO"
  | .rdRsv _ _ => "RD.RSV"
  | .rdDigest _ _ => "RD.DIGEST"
  | .busErrSize _ _ _ => "BUSERR.SIZE"
  | .busErrAlignOdd _ _ _ => "BUSERR.ALIGN_ODD"
  | .busErrAlign2 _ _ _ => "BUSERR.ALIGN_2"

/-! ## The fields of a T40 word (30_encoding.md R71) -/

/-- T[39], RW: 1 write, 0 read. -/
def t40Rw (t : BitVec 40) : BitVec 1 := t.extractLsb' 39 1

/-- T[38], SZ4: 1 if the access is 32 bits wide. -/
def t40Sz4 (t : BitVec 40) : BitVec 1 := t.extractLsb' 38 1

/-- T[37:32], OFFSET[5:0]. -/
def t40Offset (t : BitVec 40) : BitVec 6 := t.extractLsb' 32 6

/-- T[31:0], WDATA. -/
def t40Wdata (t : BitVec 40) : Word := t.extractLsb' 0 32

/-! ## The decoder -/

/-- A write to CTRL, by CMD = WDATA[3:0] (30_encoding.md R72). -/
def decodeCtrlWrite (wdata : Word) : Instr :=
  let ign := wdata.extractLsb' 4 28
  let cmd := wdata.extractLsb' 0 4
  if cmd = 0 then .wrCtrlNop ign
  else if cmd = 1 then .wrCtrlInit ign
  else if cmd = 2 then .wrCtrlFinalize ign
  else if cmd = 3 then .wrCtrlRsv3 ign
  else if cmd.extractLsb' 2 2 = 1 then .wrCtrlRsv4_7 ign (cmd.extractLsb' 0 2)
  else .wrCtrlRsv8_F ign (cmd.extractLsb' 0 3)

/-- A 32-bit write at the register `reg` = OFFSET[5:2] (30_encoding.md R74; the map is 10_state.md R35). -/
def decodeWrite (reg : BitVec 4) (wdata : Word) : Instr :=
  if reg = 0 then decodeCtrlWrite wdata
  else if reg = 1 then .wrStatus wdata
  else if reg = 2 then .wrDataWord wdata
  else if reg = 3 then .wrDataByte wdata
  else if reg.extractLsb' 1 3 = 2 then .wrBitlen (reg.extractLsb' 0 1) wdata
  else if reg.extractLsb' 1 3 = 3 then .wrRsv (reg.extractLsb' 0 1) wdata
  else .wrDigest (reg.extractLsb' 0 3) wdata

/-- A 32-bit read at the register `reg` = OFFSET[5:2] (30_encoding.md R74; the map is 10_state.md R35). -/
def decodeRead (reg : BitVec 4) (wdata : Word) : Instr :=
  if reg = 0 then .rdCtrl wdata
  else if reg = 1 then .rdStatus wdata
  else if reg = 2 then .rdDataWord wdata
  else if reg = 3 then .rdDataByte wdata
  else if reg = 4 then .rdBitlenHi wdata
  else if reg = 5 then .rdBitlenLo wdata
  else if reg.extractLsb' 1 3 = 3 then .rdRsv (reg.extractLsb' 0 1) wdata
  else .rdDigest (reg.extractLsb' 0 3) wdata

/-- The transaction a T40 word names. "Every T40 pattern falls in exactly one row" (30_encoding.md R74),
so no word is refused. -/
def decode (t : BitVec 40) : Instr :=
  let offset := t40Offset t
  if t40Sz4 t = 0 then .busErrSize (t40Rw t) offset (t40Wdata t)
  else if offset.extractLsb' 0 1 = 1 then .busErrAlignOdd (t40Rw t) (offset.extractLsb' 1 5) (t40Wdata t)
  else if offset.extractLsb' 0 2 = 2 then .busErrAlign2 (t40Rw t) (offset.extractLsb' 2 4) (t40Wdata t)
  else if t40Rw t = 1 then decodeWrite (offset.extractLsb' 2 4) (t40Wdata t)
  else decodeRead (offset.extractLsb' 2 4) (t40Wdata t)

/-- Why a string of bits is no transaction. -/
inductive DecodeError where
  /-- More than 40 bits: "Every transaction is one T40 pattern" (30_encoding.md R78). -/
  | tooManyBits
  /-- The number does not fit in the bits given for it. -/
  | numberTooLarge
  deriving DecidableEq, Repr

/-- The decoder on `nbits` bits that make the number `w`, bit 0 the least significant and every T40 bit above
`nbits` 0. -/
def decodeBits (nbits w : Nat) : Except DecodeError Instr :=
  if nbits > 40 then .error .tooManyBits
  else if w ≥ 2 ^ nbits then .error .numberTooLarge
  else .ok (decode (BitVec.ofNat 40 w))

/-- The transaction the decoder reads from a table word, numbered as opcode_table.json numbers it. T40 is
one 40-bit word and no bus format (30_encoding.md R71), so its bits are the table's. -/
def decodeTableWord (nbits w : Nat) : Option Instr := (decodeBits nbits w).toOption

/-! ## The encoder -/

/-- T40 from its fields: RW ‖ SZ4 ‖ OFFSET ‖ WDATA (30_encoding.md R71). -/
def t40 (rw sz4 : BitVec 1) (offset : BitVec 6) (wdata : Word) : BitVec 40 := rw ++ sz4 ++ offset ++ wdata

/-- The T40 word of a 32-bit write at `offset`. -/
def t40Write (offset : BitVec 6) (wdata : Word) : BitVec 40 := t40 1 1 offset wdata

/-- The T40 word of a 32-bit read at `offset`. -/
def t40Read (offset : BitVec 6) (wdata : Word) : BitVec 40 := t40 0 1 offset wdata

/-- The T40 word of a transaction, from the OFFSET and WDATA columns of 30_encoding.md R74. -/
def encode : Instr → BitVec 40
  | .wrCtrlNop ign => t40Write 0x00 (ign ++ 0x0#4)
  | .wrCtrlInit ign => t40Write 0x00 (ign ++ 0x1#4)
  | .wrCtrlFinalize ign => t40Write 0x00 (ign ++ 0x2#4)
  | .wrCtrlRsv3 ign => t40Write 0x00 (ign ++ 0x3#4)
  | .wrCtrlRsv4_7 ign lo => t40Write 0x00 (ign ++ (1#2 ++ lo))
  | .wrCtrlRsv8_F ign lo => t40Write 0x00 (ign ++ (1#1 ++ lo))
  | .wrDataWord w => t40Write 0x08 w
  | .wrDataByte w => t40Write 0x0c w
  | .wrStatus w => t40Write 0x04 w
  | .wrBitlen lo w => t40Write (2#3 ++ lo ++ 0#2) w
  | .wrRsv lo w => t40Write (3#3 ++ lo ++ 0#2) w
  | .wrDigest i w => t40Write (1#1 ++ i ++ 0#2) w
  | .rdCtrl w => t40Read 0x00 w
  | .rdStatus w => t40Read 0x04 w
  | .rdDataWord w => t40Read 0x08 w
  | .rdDataByte w => t40Read 0x0c w
  | .rdBitlenHi w => t40Read 0x10 w
  | .rdBitlenLo w => t40Read 0x14 w
  | .rdRsv lo w => t40Read (3#3 ++ lo ++ 0#2) w
  | .rdDigest i w => t40Read (1#1 ++ i ++ 0#2) w
  | .busErrSize rw offset w => t40 rw 0 offset w
  | .busErrAlignOdd rw offHi w => t40 rw 1 (offHi ++ 1#1) w
  | .busErrAlign2 rw offHi w => t40 rw 1 (offHi ++ 2#2) w

end Sys2Proof
end

