-- ==== Sys2Proof/Machine/State.lean ====
section
/-! DEFINITION. The state of SHA256-CORE (10_state.md R20), the host's and the environment's side of the
interface as plain data, the reasons a step can stop, and the state after reset (R44). -/

namespace Sys2Proof.Machine

/-- MODE, the state of the current computation (10_state.md R24). -/
inductive Mode where
  | empty
  | absorbing
  | finalized
  | failed
  deriving DecidableEq, Repr

/-- PHASE, the engine's state (10_state.md R25). -/
inductive Phase where
  | idle
  | round
  | update
  deriving DecidableEq, Repr

/-- The core's state: "exactly the elements below. Nothing else is state" (10_state.md R20). -/
structure CoreState where
  /-- H[0..7] (R21). -/
  h : EightWords
  /-- a..h = WV[0..7] (R22). -/
  wv : EightWords
  /-- MODE (R24). -/
  mode : Mode
  /-- PHASE (R25). -/
  phase : Phase
  /-- T (R26). -/
  t : BitVec 6
  /-- FIN (R27). -/
  fin : Bool
  /-- PEND2 (R27). -/
  pend2 : Bool
  /-- BITLEN (R28). -/
  bitlen : BitVec 64
  /-- BUF[0..63] (R29). -/
  buf : Block
  /-- BUF_CNT (R29). -/
  bufCnt : BitVec 7
  /-- ERR_LEN (R30). -/
  errLen : Bool
  /-- ERR_CMD (R30). -/
  errCmd : Bool
  /-- ECAUSE (R30). -/
  ecause : BitVec 3
  deriving DecidableEq, Repr

/-- How a transaction ended, as the bus shows it to the host. -/
inductive Reply where
  /-- A read completed with this value: `return v` (00_scope.md R13). -/
  | data (v : Word)
  /-- A write completed: `done` (00_scope.md R13). -/
  | done
  /-- A bus error response: `buserr` (00_scope.md R13). -/
  | busError
  /-- The transaction was lost to a reset, and no result is derived for it (70_reset_and_hazards.md R262). -/
  | lost
  deriving DecidableEq, Repr

/-- One choice of what moves next. The spec leaves the order of host and engine steps free (00_scope.md R14) and
lets reset come at any time (70_reset_and_hazards.md R260, R261), so the choices are the environment's. -/
inductive Turn where
  /-- The engine moves if it has a step. -/
  | engine
  /-- The host moves if its transaction can be accepted. -/
  | host
  /-- Reset is asserted. `inProgress` says whether the host's next transaction was in progress at that moment
  (R262); `wv`, `t` and `buf` are the values that 10_state.md R44 leaves unspecified, drawn freely. -/
  | reset (inProgress : Bool) (wv : EightWords) (t : BitVec 6) (buf : Block)
  deriving DecidableEq, Repr

/-- The machine: the core's own state and the model's own fields. -/
structure State where
  /-- The core (10_state.md R20). -/
  core : CoreState
  /-- The T40 words of the transactions the host has yet to have performed, oldest first (20_memory.md R63).
  The model's own field (log 1). -/
  pending : List (BitVec 40)
  /-- What moves next, the model's free value (log 2): one turn is used up by each step. -/
  turns : List Turn
  /-- The replies the bus has given, newest first (30_encoding.md R70). The model's own field (log 1). -/
  replies : List Reply
  deriving DecidableEq, Repr

/-- Why the machine stops. The spec has no fault that stops the core: its errors are recorded in STATUS
(60_exceptions.md R230, R238). -/
inductive Fault where
  /-- Raised by WR DATA_BYTE, WR DATA_WORD and WR CTRL FINALIZE when they pass every check and BUF_CNT > 63,
  where the spec gives no effect: AbsorbByte has the precondition BUF_CNT ≤ 63 (41_padder.md R104), and FINALIZE
  reads n = BUF_CNT in 0..63 (R110). Safe: no reachable state meets it (10_state.md R45), and the model stops
  (log 5). -/
  | bufferOverrun
  deriving DecidableEq, Repr

/-- Why an instruction has no meaning in the model. -/
inductive Refusal where
  /-- Raised by `exec` alone, for an instruction that has no meaning yet. Safe: the model stops. No arm raises
  it. -/
  | notModelled (mnemonic : String)
  deriving DecidableEq, Repr

/-- What a step and a meaning answer. -/
abbrev Result := Host.Outcome State Fault Refusal

/-- The core after reset (10_state.md R44, 70_reset_and_hazards.md R260), with the elements that R44 leaves
unspecified given: WV, T and BUF. -/
def CoreState.afterReset (wv : EightWords) (t : BitVec 6) (buf : Block) : CoreState :=
  { h := IV
    wv := wv
    mode := .empty
    phase := .idle
    t := t
    fin := false
    pend2 := false
    bitlen := 0
    buf := buf
    bufCnt := 0
    errLen := false
    errCmd := false
    ecause := 0 }

/-- The machine right after reset (10_state.md R44). DESIGN CHOICE: WV, T and BUF, which R44 leaves
unspecified, are 0 (log 3), and the model's own fields are empty (logs 1 and 2). -/
def State.reset : State :=
  { core := CoreState.afterReset ⟨0, 0, 0, 0, 0, 0, 0, 0⟩ 0 (Vector.replicate 64 0)
    pending := []
    turns := []
    replies := [] }

end Sys2Proof.Machine
end

