-- ==== Sys2Proof/Machine/Flags.lean ====
section
/-! DEFINITION. The status register STATUS (10_state.md R37) and the codes of its fields. -/

namespace Sys2Proof.Machine

/-- BUSY = (PHASE ≠ IDLE) (10_state.md R25). -/
def CoreState.busy (c : CoreState) : Bool := c.phase != .idle

/-- The value of MODE (10_state.md R24). -/
def Mode.code : Mode → BitVec 2
  | .empty => 0
  | .absorbing => 1
  | .finalized => 2
  | .failed => 3

/-- STATUS, by the bit positions of 10_state.md R37: [31:15] zero, [14:8] BUF_CNT, [7:5] ECAUSE, [4] ERR_CMD,
[3] ERR_LEN, [2] BUSY, [1:0] MODE. -/
def status (c : CoreState) : Word :=
  0#17 ++ c.bufCnt ++ c.ecause ++ BitVec.ofBool c.errCmd ++ BitVec.ofBool c.errLen ++ BitVec.ofBool c.busy ++
    c.mode.code

/-- The two kinds of error that `reject` records (60_exceptions.md R233). -/
inductive ErrorKind where
  /-- LengthOverflow (60_exceptions.md R230). -/
  | len
  /-- IllegalCommand (60_exceptions.md R230). -/
  | cmd
  deriving DecidableEq, Repr

/-- The causes that are passed to `reject` (60_exceptions.md R231). -/
inductive Cause where
  | lengthOverflow
  | reservedCmd
  | dataWordMisaligned
  | afterFinalize
  | inFailed
  deriving DecidableEq, Repr

/-- The ECAUSE code of a cause (60_exceptions.md R231). -/
def Cause.code : Cause → BitVec 3
  | .lengthOverflow => 1
  | .reservedCmd => 2
  | .dataWordMisaligned => 3
  | .afterFinalize => 4
  | .inFailed => 5

/-- "BITLEN > 2^64 − 1 − bits": absorbing `bits` more bits would take the bit length past 2^64 − 1
(41_padder.md R105, R106). -/
def lengthWouldOverflow (c : CoreState) (bits : Nat) : Bool := decide (c.bitlen.toNat > 2 ^ 64 - 1 - bits)

/-- BUF_CNT mod 4 ≠ 0 (41_padder.md R106). -/
def dataWordMisaligned (c : CoreState) : Bool := decide (c.bufCnt.toNat % 4 ≠ 0)

end Sys2Proof.Machine
end

