-- ==== Sys2Proof/Machine/Operands.lean ====
section
/-! DEFINITION. Operand assembly (30_encoding.md R73): what a transaction takes from WDATA and OFFSET. CMD is
taken by the decoder (R72). -/

namespace Sys2Proof.Machine

/-- The operand of WR DATA_BYTE: WDATA[7:0]. "WDATA[31:8] is ignored" (10_state.md R39). -/
def dataByteOperand (wdata : Word) : Byte := wdata.extractLsb' 0 8

/-- B0 of WR DATA_WORD, the byte absorbed first: WDATA[31:24] (30_encoding.md R73). -/
def dataWordB0 (wdata : Word) : Byte := wdata.extractLsb' 24 8

/-- B1 of WR DATA_WORD: WDATA[23:16] (30_encoding.md R73). -/
def dataWordB1 (wdata : Word) : Byte := wdata.extractLsb' 16 8

/-- B2 of WR DATA_WORD: WDATA[15:8] (30_encoding.md R73). -/
def dataWordB2 (wdata : Word) : Byte := wdata.extractLsb' 8 8

/-- B3 of WR DATA_WORD, the byte absorbed last: WDATA[7:0] (30_encoding.md R73). -/
def dataWordB3 (wdata : Word) : Byte := wdata.extractLsb' 0 8

/-- Element i of eight words, i in 0..7: H[i], and WV[i] with WV[0] = a and WV[7] = h (10_state.md R21, R22). -/
def wordAt (v : EightWords) (i : Nat) : Word :=
  match i with
  | 0 => v.a
  | 1 => v.b
  | 2 => v.c
  | 3 => v.d
  | 4 => v.e
  | 5 => v.f
  | 6 => v.g
  | _ => v.h

/-- BITLEN[63:32], what BITLEN_HI reads (10_state.md R40). -/
def bitlenHi (c : CoreState) : Word := c.bitlen.extractLsb' 32 32

/-- BITLEN[31:0], what BITLEN_LO reads (10_state.md R40). -/
def bitlenLo (c : CoreState) : Word := c.bitlen.extractLsb' 0 32

end Sys2Proof.Machine
end

