-- ==== Sys2Proof/Machine/Sha.lean ====
section
/-! DEFINITION. The SHA-256 functions of 42_compressor.md: the word primitives (R130 to R139), the message
schedule (R140, R141), the round (R142) and the compression function (R143). -/

namespace Sys2Proof.Machine

/-! ## Byte order (00_scope.md R12) -/

/-- `BE32(b0, b1, b2, b3) = b0 ‖ b1 ‖ b2 ‖ b3` (00_scope.md R12). -/
def be32 (b0 b1 b2 b3 : Byte) : Word := b0 ++ b1 ++ b2 ++ b3

/-- `BEBYTES32(w)`: w[31:24], w[23:16], w[15:8], w[7:0] (00_scope.md R12). -/
def beBytes32 (w : Word) : List Byte :=
  [w.extractLsb' 24 8, w.extractLsb' 16 8, w.extractLsb' 8 8, w.extractLsb' 0 8]

/-- `BE64(n)[k]`: byte k of the 8 bytes n[63:56], n[55:48], …, n[7:0] (00_scope.md R12). -/
def be64 (n : BitVec 64) (k : Nat) : Byte := n.extractLsb' (8 * (7 - k)) 8

/-! ## Word primitives -/

/-- `add32(x, y) = (x + y) mod 2^32` (R130). -/
def add32 (x y : Word) : Word := x + y

/-- `shr(x, n)`, the logical right shift (R131). -/
def shr (x : Word) (n : Nat) : Word := x >>> n

/-- `rotr(x, n) = shr(x, n) | ((x << (32 − n)) mod 2^32)`, n in 1..31 (R132). -/
def rotr (x : Word) (n : Nat) : Word := shr x n ||| (x <<< (32 - n))

/-- `σ0(x) = rotr(x,7) ⊕ rotr(x,18) ⊕ (x >> 3)` (R134). -/
def smallSigma0 (x : Word) : Word := rotr x 7 ^^^ rotr x 18 ^^^ shr x 3

/-- `σ1(x) = rotr(x,17) ⊕ rotr(x,19) ⊕ (x >> 10)` (R135). -/
def smallSigma1 (x : Word) : Word := rotr x 17 ^^^ rotr x 19 ^^^ shr x 10

/-- `Σ0(x) = rotr(x,2) ⊕ rotr(x,13) ⊕ rotr(x,22)` (R136). -/
def bigSigma0 (x : Word) : Word := rotr x 2 ^^^ rotr x 13 ^^^ rotr x 22

/-- `Σ1(x) = rotr(x,6) ⊕ rotr(x,11) ⊕ rotr(x,25)` (R137). -/
def bigSigma1 (x : Word) : Word := rotr x 6 ^^^ rotr x 11 ^^^ rotr x 25

/-- `Ch(x,y,z) = (x ∧ y) ⊕ (¬x ∧ z)` (R138). -/
def ch (x y z : Word) : Word := (x &&& y) ^^^ (~~~x &&& z)

/-- `Maj(x,y,z) = (x ∧ y) ⊕ (x ∧ z) ⊕ (y ∧ z)` (R139). -/
def maj (x y z : Word) : Word := (x &&& y) ^^^ (x &&& z) ^^^ (y &&& z)

/-! ## Message schedule -/

/-- Byte i of a block, i in 0..63. -/
def blockByte (b : Block) (i : Nat) : Byte := b.getD i 0

/-- `W[j] = BE32(B[4j], B[4j+1], B[4j+2], B[4j+3])`, j in 0..15 (R140). -/
def blockWord (b : Block) (j : Nat) : Word :=
  be32 (blockByte b (4 * j)) (blockByte b (4 * j + 1)) (blockByte b (4 * j + 2)) (blockByte b (4 * j + 3))

/-- The next schedule word, W[i] for i = the number of words so far, 16 or more (R141). -/
def nextScheduleWord (w : List Word) : Word :=
  let i := w.length
  add32 (add32 (add32 (smallSigma1 (w.getD (i - 2) 0)) (w.getD (i - 7) 0)) (smallSigma0 (w.getD (i - 15) 0)))
    (w.getD (i - 16) 0)

/-- `n` more schedule words (R141). -/
def extendSchedule : Nat → List Word → List Word
  | 0, w => w
  | n + 1, w => extendSchedule n (w ++ [nextScheduleWord w])

/-- `Sched(B)`, the words W[0..63] (R140, R141). The schedule is not stored (10_state.md R31, log 11). -/
def sched (b : Block) : List Word := extendSchedule 48 ((List.range 16).map (blockWord b))

/-- `Sched(B)[t]`, t in 0..63. -/
def schedWord (b : Block) (t : Nat) : Word := (sched b).getD t 0

/-! ## Rounds -/

/-- `Round((a,…,h), k, w)` (R142). -/
def shaRound (v : EightWords) (k w : Word) : EightWords :=
  let t1 := add32 (add32 (add32 (add32 v.h (bigSigma1 v.e)) (ch v.e v.f v.g)) k) w
  let t2 := add32 (bigSigma0 v.a) (maj v.a v.b v.c)
  { a := add32 t1 t2, b := v.a, c := v.b, d := v.c, e := add32 v.d t1, f := v.e, g := v.f, h := v.g }

/-- Elementwise add32, the state update of R143 and R152. -/
def addWords (x y : EightWords) : EightWords :=
  { a := add32 x.a y.a, b := add32 x.b y.b, c := add32 x.c y.c, d := add32 x.d y.d,
    e := add32 x.e y.e, f := add32 x.f y.f, g := add32 x.g y.g, h := add32 x.h y.h }

/-- Rounds 0..n−1 of block `b` from `v`, in order (the loop of R143). -/
def rounds (b : Block) (v : EightWords) : Nat → EightWords
  | 0 => v
  | n + 1 => shaRound (rounds b v n) (K n) (schedWord b n)

/-- `Compress(H, B)` (R143). -/
def compress (s : EightWords) (b : Block) : EightWords := addWords s (rounds b s 64)

end Sys2Proof.Machine
end

