-- ==== Sys2Proof/Machine/Ops.lean ====
section
/-! DEFINITION. The shared operations: the block buffer, StartBlock (42_compressor.md R150), AbsorbByte
(41_padder.md R104), taking an exception, which on this core is `reject` (60_exceptions.md R233, R238), what undoes
it (R239), reset (70_reset_and_hazards.md R260 to R262), the hold (60_exceptions.md R236) and the replies. -/

namespace Sys2Proof.Machine

/-! ## The block buffer -/

/-- A block given byte by byte. -/
def blockOf (f : Nat → Byte) : Block := Vector.ofFn (fun i : Fin 64 => f i.val)

/-- `BUF[i] <- v`. The fault `bufferOverrun` keeps i ≤ 63 wherever a rule writes BUF[BUF_CNT]. -/
def putByte (b : Block) (i : Nat) (v : Byte) : Block := b.setIfInBounds i v

/-- `for i in n..63: BUF[i] <- v`. -/
def fillFrom (b : Block) (n : Nat) (v : Byte) : Block := blockOf fun i => if n ≤ i then v else blockByte b i

/-- `for k in 0..7: BUF[56+k] <- BE64(len)[k]` (20_memory.md R55). -/
def putLength (b : Block) (len : BitVec 64) : Block :=
  blockOf fun i => if 56 ≤ i then be64 len (i - 56) else blockByte b i

/-! ## Starting a block and absorbing -/

/-- `StartBlock()` (42_compressor.md R150). -/
def startBlock (c : CoreState) : CoreState := { c with wv := c.h, t := 0, phase := .round }

/-- `AbsorbByte(b)` (41_padder.md R104). -/
def absorbByte (b : Byte) (c : CoreState) : CoreState :=
  let c := { c with buf := putByte c.buf c.bufCnt.toNat b }
  let c := { c with bufCnt := c.bufCnt + 1 }
  let c := { c with bitlen := c.bitlen + 8 }
  let c := { c with mode := .absorbing }
  if c.bufCnt = 64 then startBlock c else c

/-- The part of AbsorbByte's and FINALIZE's precondition that no check of theirs tests: BUF_CNT ≤ 63
(41_padder.md R104, R110). -/
def bufferHasRoom (c : CoreState) : Bool := decide (c.bufCnt.toNat ≤ 63)

/-! ## Taking an exception, and what undoes it -/

/-- `reject(kind, cause)` (60_exceptions.md R233), "the only way an error is recorded" and all there is of a trap
entry (R238). -/
def reject (kind : ErrorKind) (cause : Cause) (c : CoreState) : CoreState :=
  let c := match kind with
    | .len => { c with errLen := true }
    | .cmd => { c with errCmd := true }
  let c := if c.ecause = 0 then { c with ecause := cause.code } else c
  match c.mode with
  | .empty => { c with mode := .failed }
  | .absorbing => { c with mode := .failed }
  | .finalized => c
  | .failed => c

/-- Clearing the error fields, which only INIT and reset do: there is no trap return (60_exceptions.md R239). -/
def clearErrors (c : CoreState) : CoreState := { c with errLen := false, errCmd := false, ecause := 0 }

/-! ## Replies and the hold -/

/-- The bus gives reply `r`. -/
def State.reply (s : State) (r : Reply) : State := { s with replies := r :: s.replies }

/-- `done`, with the core as the write leaves it (00_scope.md R13). -/
def writeDone (s : State) (c : CoreState) : Result := .next ({ s with core := c }.reply .done)

/-- `return v` (00_scope.md R13). A read changes nothing of the core (20_memory.md R60). -/
def readReturns (s : State) (v : Word) : Result := .next (s.reply (.data v))

/-- `buserr`, which "completes with a bus error response and changes no state" (00_scope.md R13). -/
def busErrorReply (s : State) : Result := .next (s.reply .busError)

/-- `if BUSY = 1: hold`, then the rest of the rule (60_exceptions.md R236). A held transaction "is not accepted, has
no effect": the state is unchanged and no reply is given. `step` keeps it pending and gives the engine the step
(log 6). -/
def holdWhileBusy (s : State) (rest : Result) : Result := if s.core.busy then .next s else rest

/-! ## Reset -/

/-- The reset event (70_reset_and_hazards.md R260, R261): the core takes the values of 10_state.md R44, with the
drawn values where R44 leaves them unspecified. What the host has pending and has been told is not the core's. -/
def resetCore (s : State) (wv : EightWords) (t : BitVec 6) (buf : Block) : State :=
  { s with core := CoreState.afterReset wv t buf }

/-- A transaction in progress or held when reset is asserted is lost, and the host must reissue it
(70_reset_and_hazards.md R262; log 9). -/
def loseOutstanding (s : State) : State :=
  match s.pending with
  | [] => s
  | _ :: rest => { s with pending := rest }.reply .lost

end Sys2Proof.Machine
end

