-- ==== Sys2Proof/Machine/RegAccess.lean ====
section
/-! DEFINITION. Register access (44_register_access.md): reads (R201 to R206), writes to read-only and reserved
offsets (R207) and bus errors (R209). -/

namespace Sys2Proof.Machine

/-! ## Reads -/

/-- RD STATUS (R201), "never held". -/
def execRdStatus (_wdata : Word) (s : State) : Result := readReturns s (status s.core)

/-- RD BITLEN_HI (R202). -/
def execRdBitlenHi (_wdata : Word) (s : State) : Result := holdWhileBusy s <| readReturns s (bitlenHi s.core)

/-- RD BITLEN_LO (R203). -/
def execRdBitlenLo (_wdata : Word) (s : State) : Result := holdWhileBusy s <| readReturns s (bitlenLo s.core)

/-- RD DIGESTi (R204). -/
def execRdDigest (i : BitVec 3) (_wdata : Word) (s : State) : Result :=
  holdWhileBusy s <| readReturns s (wordAt s.core.h i.toNat)

/-- RD CTRL (R205). -/
def execRdCtrl (_wdata : Word) (s : State) : Result := holdWhileBusy s <| readReturns s 0

/-- RD DATA_WORD (R205). -/
def execRdDataWord (_wdata : Word) (s : State) : Result := holdWhileBusy s <| readReturns s 0

/-- RD DATA_BYTE (R205). -/
def execRdDataByte (_wdata : Word) (s : State) : Result := holdWhileBusy s <| readReturns s 0

/-- RD @0x18 and RD @0x1C (R206). -/
def execRdRsv (_offLo : BitVec 1) (_wdata : Word) (s : State) : Result := holdWhileBusy s <| readReturns s 0

/-! ## Ignored writes -/

/-- WR STATUS (R207). -/
def execWrStatus (_wdata : Word) (s : State) : Result := holdWhileBusy s <| writeDone s s.core

/-- WR BITLEN_HI and WR BITLEN_LO (R207). -/
def execWrBitlen (_offLo : BitVec 1) (_wdata : Word) (s : State) : Result := holdWhileBusy s <| writeDone s s.core

/-- WR @0x18 and WR @0x1C (R207). -/
def execWrRsv (_offLo : BitVec 1) (_wdata : Word) (s : State) : Result := holdWhileBusy s <| writeDone s s.core

/-- WR DIGESTi (R207). -/
def execWrDigest (_i : BitVec 3) (_wdata : Word) (s : State) : Result := holdWhileBusy s <| writeDone s s.core

/-! ## Bus errors -/

/-- An access that is not 32 bits wide (R209). -/
def execBusErrSize (_rw : BitVec 1) (_offset : BitVec 6) (_wdata : Word) (s : State) : Result := busErrorReply s

/-- An access at an odd offset (R209). -/
def execBusErrAlignOdd (_rw : BitVec 1) (_offHi : BitVec 5) (_wdata : Word) (s : State) : Result := busErrorReply s

/-- An access at an offset that is 2 mod 4 (R209). -/
def execBusErrAlign2 (_rw : BitVec 1) (_offHi : BitVec 4) (_wdata : Word) (s : State) : Result := busErrorReply s

end Sys2Proof.Machine
end

