-- ==== Sys2Proof/Machine/Padder.lean ====
section
/-! DEFINITION. The padder (41_padder.md): `pad` (R100), WR DATA_BYTE (R105), WR DATA_WORD (R106), FINALIZE
(R110) and PadBlock2 (R111). -/

namespace Sys2Proof.Machine

/-! ## The padding function -/

/-- The 8 bytes `BE64(n)`, most significant first (00_scope.md R12). -/
def be64Bytes (n : BitVec 64) : List Byte := (List.range 8).map (be64 n)

/-- `while len(p) mod 64 ≠ 56: p <- p ‖ [0x00]` (R100), with the number of turns of the loop given at once. -/
def zeroFill (p : List Byte) : List Byte := p ++ List.replicate ((120 - p.length % 64) % 64) 0

/-- The padded message (R100), for a message that is not too long. -/
def paddedBytes (m : List Byte) : List Byte :=
  zeroFill (m ++ [0x80]) ++ be64Bytes (BitVec.ofNat 64 (m.length * 8))

/-- `blocks(p)`: "block j = p[64j .. 64j+63]" (R100). -/
def blocks (p : List Byte) : List Block :=
  (List.range (p.length / 64)).map fun j => blockOf fun i => p.getD (64 * j + i) 0

/-- `pad(m)` (R100). It "fails with `LengthOverflow`" for 2^61 bytes or more (R103): no blocks. -/
def pad (m : List Byte) : Option (List Block) :=
  if m.length ≥ 2 ^ 61 then none else some (blocks (paddedBytes m))

/-! ## Absorbing -/

/-- WR DATA_BYTE (R105). -/
def execWrDataByte (wdata : Word) (s : State) : Result :=
  holdWhileBusy s <|
    if s.core.mode = .failed then writeDone s (reject .cmd .inFailed s.core)
    else if s.core.mode = .finalized then writeDone s (reject .cmd .afterFinalize s.core)
    else if lengthWouldOverflow s.core 8 then writeDone s (reject .len .lengthOverflow s.core)
    else if bufferHasRoom s.core then writeDone s (absorbByte (dataByteOperand wdata) s.core)
    else .fault .bufferOverrun

/-- The four AbsorbByte actions of WR DATA_WORD, in order (R106). -/
def absorbWord (wdata : Word) (c : CoreState) : CoreState :=
  let c := absorbByte (dataWordB0 wdata) c
  let c := absorbByte (dataWordB1 wdata) c
  let c := absorbByte (dataWordB2 wdata) c
  absorbByte (dataWordB3 wdata) c

/-- WR DATA_WORD (R106). -/
def execWrDataWord (wdata : Word) (s : State) : Result :=
  holdWhileBusy s <|
    if s.core.mode = .failed then writeDone s (reject .cmd .inFailed s.core)
    else if s.core.mode = .finalized then writeDone s (reject .cmd .afterFinalize s.core)
    else if dataWordMisaligned s.core then writeDone s (reject .cmd .dataWordMisaligned s.core)
    else if lengthWouldOverflow s.core 32 then writeDone s (reject .len .lengthOverflow s.core)
    else if bufferHasRoom s.core then writeDone s (absorbWord wdata s.core)
    else .fault .bufferOverrun

/-! ## The tail -/

/-- FINALIZE once accepted: the tail of R110 and StartBlock. -/
def finalizeTail (c : CoreState) : CoreState :=
  let n := c.bufCnt.toNat
  let c := { c with buf := putByte c.buf n 0x80 }
  let c := { c with buf := fillFrom c.buf (n + 1) 0x00 }
  let c := if n ≤ 55 then { c with buf := putLength c.buf c.bitlen, pend2 := false } else { c with pend2 := true }
  startBlock { c with fin := true, bufCnt := 64 }

/-- WR CTRL, CMD = 0x2, FINALIZE (R110). -/
def execWrCtrlFinalize (_ign : BitVec 28) (s : State) : Result :=
  holdWhileBusy s <|
    if s.core.mode = .failed then writeDone s (reject .cmd .inFailed s.core)
    else if s.core.mode = .finalized then writeDone s (reject .cmd .afterFinalize s.core)
    else if bufferHasRoom s.core then writeDone s (finalizeTail s.core)
    else .fault .bufferOverrun

/-- `PadBlock2()` (R111). -/
def padBlock2 (c : CoreState) : CoreState :=
  let c := { c with buf := fillFrom c.buf 0 0x00 }
  let c := { c with buf := putLength c.buf c.bitlen }
  startBlock { c with pend2 := false, bufCnt := 64 }

end Sys2Proof.Machine
end

