-- ==== Sys2Proof/Machine/Sequencer.lean ====
section
/-! DEFINITION. The state accumulator and block sequencer (43_sequencer.md): Digest and Serialize (R170, R172),
the commands NOP (R174), INIT (R175) and the reserved ones (R176), and SequencerNext (R180). -/

namespace Sys2Proof.Machine

/-! ## The digest function -/

/-- `Serialize(S)`: BEBYTES32(S[0]) ‖ … ‖ BEBYTES32(S[7]) (R172). -/
def serialize (v : EightWords) : List Byte := (List.range 8).flatMap fun i => beBytes32 (wordAt v i)

/-- `Digest(m)` (R170). It "is undefined" for 2^61 bytes or more: none. -/
def digest (m : List Byte) : Option (List Byte) :=
  (pad m).map fun bs => serialize (bs.foldl compress IV)

/-! ## Commands -/

/-- WR CTRL, CMD = 0x0, NOP (R174). -/
def execWrCtrlNop (_ign : BitVec 28) (s : State) : Result := holdWhileBusy s <| writeDone s s.core

/-- INIT once accepted (R175): "BUF, WV and T keep their values". -/
def initCore (c : CoreState) : CoreState :=
  { clearErrors c with h := IV, bitlen := 0, bufCnt := 0, mode := .empty, fin := false, pend2 := false }

/-- WR CTRL, CMD = 0x1, INIT (R175). -/
def execWrCtrlInit (_ign : BitVec 28) (s : State) : Result := holdWhileBusy s <| writeDone s (initCore s.core)

/-- A reserved command (R176). -/
def reservedCommand (s : State) : Result := holdWhileBusy s <| writeDone s (reject .cmd .reservedCmd s.core)

/-- WR CTRL, CMD = 0x3 (R176). -/
def execWrCtrlRsv3 (_ign : BitVec 28) (s : State) : Result := reservedCommand s

/-- WR CTRL, CMD = 0x4..0x7 (R176). -/
def execWrCtrlRsv4_7 (_ign : BitVec 28) (_lo : BitVec 2) (s : State) : Result := reservedCommand s

/-- WR CTRL, CMD = 0x8..0xF (R176). -/
def execWrCtrlRsv8_F (_ign : BitVec 28) (_lo : BitVec 3) (s : State) : Result := reservedCommand s

/-! ## The block sequencer -/

/-- `SequencerNext()` (R180). -/
def sequencerNext (c : CoreState) : CoreState :=
  if c.fin ∧ c.pend2 then padBlock2 c
  else if c.fin then { c with fin := false, mode := .finalized, phase := .idle }
  else { c with phase := .idle }

end Sys2Proof.Machine
end

