-- ==== Sys2Proof/Machine/Dispatch.lean ====
section
/-! DEFINITION. The meaning of each transaction, one arm per constructor of Instr. -/

namespace Sys2Proof.Machine

def exec (i : Instr) (s : State) : Host.Outcome State Fault Refusal :=
  match i with
  | .wrCtrlNop ign => Sys2Proof.Machine.execWrCtrlNop ign s
  | .wrCtrlInit ign => Sys2Proof.Machine.execWrCtrlInit ign s
  | .wrCtrlFinalize ign => Sys2Proof.Machine.execWrCtrlFinalize ign s
  | .wrCtrlRsv3 ign => Sys2Proof.Machine.execWrCtrlRsv3 ign s
  | .wrCtrlRsv4_7 ign lo => Sys2Proof.Machine.execWrCtrlRsv4_7 ign lo s
  | .wrCtrlRsv8_F ign lo => Sys2Proof.Machine.execWrCtrlRsv8_F ign lo s
  | .wrDataWord wdata => Sys2Proof.Machine.execWrDataWord wdata s
  | .wrDataByte wdata => Sys2Proof.Machine.execWrDataByte wdata s
  | .wrStatus wdata => Sys2Proof.Machine.execWrStatus wdata s
  | .wrBitlen offLo wdata => Sys2Proof.Machine.execWrBitlen offLo wdata s
  | .wrRsv offLo wdata => Sys2Proof.Machine.execWrRsv offLo wdata s
  | .wrDigest n wdata => Sys2Proof.Machine.execWrDigest n wdata s
  | .rdCtrl wdata => Sys2Proof.Machine.execRdCtrl wdata s
  | .rdStatus wdata => Sys2Proof.Machine.execRdStatus wdata s
  | .rdDataWord wdata => Sys2Proof.Machine.execRdDataWord wdata s
  | .rdDataByte wdata => Sys2Proof.Machine.execRdDataByte wdata s
  | .rdBitlenHi wdata => Sys2Proof.Machine.execRdBitlenHi wdata s
  | .rdBitlenLo wdata => Sys2Proof.Machine.execRdBitlenLo wdata s
  | .rdRsv offLo wdata => Sys2Proof.Machine.execRdRsv offLo wdata s
  | .rdDigest n wdata => Sys2Proof.Machine.execRdDigest n wdata s
  | .busErrSize rw offset wdata => Sys2Proof.Machine.execBusErrSize rw offset wdata s
  | .busErrAlignOdd rw offHi wdata => Sys2Proof.Machine.execBusErrAlignOdd rw offHi wdata s
  | .busErrAlign2 rw offHi wdata => Sys2Proof.Machine.execBusErrAlign2 rw offHi wdata s

end Sys2Proof.Machine
end

