-- ==== Sys2Proof/Machine/Engine.lean ====
section
/-! DEFINITION. The engine agent (42_compressor.md section 3): RoundStep (R151) and UpdateStep (R152). -/

namespace Sys2Proof.Machine

/-- `RoundStep()`, enabled iff PHASE = ROUND (R151). -/
def roundStep (c : CoreState) : CoreState :=
  let w := schedWord c.buf c.t.toNat
  let c := { c with wv := shaRound c.wv (K c.t.toNat) w }
  if c.t = 63 then { c with phase := .update } else { c with t := c.t + 1 }

/-- `UpdateStep()`, enabled iff PHASE = UPDATE (R152), with SequencerNext in the same step. -/
def updateStep (c : CoreState) : CoreState :=
  sequencerNext { c with h := addWords c.h c.wv, bufCnt := 0 }

/-- The engine's step in each phase. It has none while PHASE = IDLE: "With BUSY = 0 it takes no steps"
(60_exceptions.md R246). -/
def engineStep (c : CoreState) : CoreState :=
  match c.phase with
  | .idle => c
  | .round => roundStep c
  | .update => updateStep c

end Sys2Proof.Machine
end

