-- ==== Sys2Proof/Machine/Agents.lean ====
section
/-! DEFINITION. How the agents take turns (00_scope.md R14): which transactions are accepted (44_register_access.md
R200), the host's step, the engine's step, the reset event, and the free order of them. -/

namespace Sys2Proof.Machine

/-- The transaction is a bus error or RD STATUS, the ones that are never held (60_exceptions.md R236). -/
def neverHeld (i : Instr) : Bool :=
  match i with
  | .wrCtrlNop _ => false
  | .wrCtrlInit _ => false
  | .wrCtrlFinalize _ => false
  | .wrCtrlRsv3 _ => false
  | .wrCtrlRsv4_7 _ _ => false
  | .wrCtrlRsv8_F _ _ => false
  | .wrDataWord _ => false
  | .wrDataByte _ => false
  | .wrStatus _ => false
  | .wrBitlen _ _ => false
  | .wrRsv _ _ => false
  | .wrDigest _ _ => false
  | .rdCtrl _ => false
  | .rdStatus _ => true
  | .rdDataWord _ => false
  | .rdDataByte _ => false
  | .rdBitlenHi _ => false
  | .rdBitlenLo _ => false
  | .rdRsv _ _ => false
  | .rdDigest _ _ => false
  | .busErrSize _ _ _ => true
  | .busErrAlignOdd _ _ _ => true
  | .busErrAlign2 _ _ _ => true

/-- The transaction is held in this state: BUSY = 1, and it is neither RD STATUS nor a bus error (44_register_access.md
R200, 60_exceptions.md R236). -/
def held (i : Instr) (c : CoreState) : Bool := c.busy && !neverHeld i

/-- The host's oldest pending transaction is held. -/
def headHeld (s : State) : Bool :=
  match s.pending with
  | [] => false
  | t :: _ => held (decode t) s.core

/-- The host has a step: it has a transaction pending and it is not held. "A model gives the host agent no step while
its transaction is held" (60_exceptions.md R236). -/
def hostEnabled (s : State) : Bool := !s.pending.isEmpty && !headHeld s

/-- The host's step: its oldest pending transaction is performed (20_memory.md R63). With nothing pending there is
none, and the machine stands still (log 14). -/
def hostStep (s : State) : Result :=
  match s.pending with
  | [] => .next s
  | t :: rest => exec (decode t) { s with pending := rest }

/-- The engine's step (42_compressor.md R151, R152). -/
def engineTurn (s : State) : Result := .next { s with core := engineStep s.core }

/-- The engine moves if it has a step, else the host. -/
def engineFirst (s : State) : Result := if s.core.busy then engineTurn s else hostStep s

/-- The host moves if it has a step, else the engine if it has one. -/
def hostFirst (s : State) : Result := if hostEnabled s then hostStep s else engineFirst s

/-- A reset event (70_reset_and_hazards.md R260 to R262). The outstanding transaction is lost if it was in progress or
is held (log 9). -/
def resetTurn (s : State) (inProgress : Bool) (wv : EightWords) (t : BitVec 6) (buf : Block) : Result :=
  let s' := if inProgress || headHeld s then loseOutstanding s else s
  .next (resetCore s' wv t buf)

/-- One step of the machine: the next turn is used up. When no turn is left the engine moves whenever it can, so a run
is always weakly fair to the engine (70_reset_and_hazards.md R270; log 2). -/
def takeTurn (s : State) : Result :=
  match s.turns with
  | [] => engineFirst s
  | .engine :: ts => engineFirst { s with turns := ts }
  | .host :: ts => hostFirst { s with turns := ts }
  | .reset inProgress wv t buf :: ts => resetTurn { s with turns := ts } inProgress wv t buf

/-- The host issues the transaction `t` after the ones it has pending (log 1). -/
def State.issueWord (s : State) (t : BitVec 40) : State := { s with pending := s.pending ++ [t] }

/-- The state in which the very next step performs the transaction `t`: it is the oldest pending one, and the host has
the turn (log 1). -/
def issueNext (s : State) (t : BitVec 40) : State := { s with pending := t :: s.pending, turns := .host :: s.turns }

end Sys2Proof.Machine
end

