-- ==== Sys2Proof/Machine/Step.lean ====
section
/-! DEFINITION. The step function and the placing of one transaction before it. -/

namespace Sys2Proof.Machine

/-- One step: of the host, of the engine, or a reset event (00_scope.md R14). -/
def step : State → Host.Outcome State Fault Refusal := takeTurn

/-- `s` with the transaction of the T40 word `w` (its low `nbits` bits) where `step` takes its next one. -/
def State.withFetchWord (s : State) (nbits w : Nat) : State := issueNext s (BitVec.ofNat 40 (w % 2 ^ nbits))

end Sys2Proof.Machine
end

