-- ==== Sys2Proof/Config.lean ====
section
/-! DEFINITION. The OPEN parameters of the hardware (00_scope.md R9): opaque constants, so that no proof can
see a value of them. -/

namespace Sys2Proof.Config

/-- The ways 00_scope.md R9 lists for a bus to report an error response (`P_BUSERR`). -/
inductive BusErrorReport where
  | errorReply
  | abort
  | hostFault
  deriving DecidableEq, Repr, Inhabited

/-- Whether reset is synchronous or asynchronous to the clock (`P_RESET_KIND`, 00_scope.md R9). -/
inductive ResetKind where
  | synchronous
  | asynchronous
  deriving DecidableEq, Repr, Inhabited

/-- `P_BASE` divided by 64. P_BASE is 64-byte aligned (20_memory.md R51). -/
opaque pBaseBlock : Nat

/-- The base address of the register window, `P_BASE` (00_scope.md R9, 20_memory.md R51). -/
def pBase : Nat := 64 * pBaseBlock

/-- How the bus reports an error response to the host, `P_BUSERR`. Nothing in the core depends on it
(44_register_access.md R209). -/
opaque pBusErr : BusErrorReport

/-- The byte of a register value that each byte lane of the host's bus carries, `P_LANES`
(20_memory.md R57). No rule depends on it. -/
opaque pLanes : Equiv.Perm (Fin 4)

/-- `P_TIMING`, first half: clock cycles per engine step (00_scope.md R9). DESIGN CHOICE: one number for every engine
step, round or update (log 8). No rule depends on it (70_reset_and_hazards.md R271). -/
opaque pCyclesPerEngineStep : Nat

/-- `P_TIMING`, second half: the latency of each transaction, in clock cycles (00_scope.md R9). DESIGN CHOICE: a latency of
its own for each transaction with its operands, the same in every state (log 8). No rule depends on it
(70_reset_and_hazards.md R271). -/
opaque pTransactionLatency : Instr → Nat

/-- `P_RESET_KIND`. No rule depends on it (70_reset_and_hazards.md R262). -/
opaque pResetKind : ResetKind

end Sys2Proof.Config
end

