-- ==== Sys2Proof/Machine/Bus.lean ====
section
/-! DEFINITION. The host's side of the bus: from an address to an offset of the window (20_memory.md R51), from a bus
access to its T40 word (30_encoding.md R70, R71), the byte lanes (20_memory.md R57) and what the host sees of a bus
error (00_scope.md R9). -/

namespace Sys2Proof.Machine

/-- `OFFSET = address − P_BASE`, for the addresses the core decodes: P_BASE .. P_BASE + 0x3F (20_memory.md R51). -/
def offsetOf (address : Nat) : Option (BitVec 6) :=
  if Config.pBase ≤ address ∧ address ≤ Config.pBase + 0x3f then some (BitVec.ofNat 6 (address - Config.pBase)) else none

/-- An access on the host's bus (30_encoding.md R70). -/
structure BusAccess where
  write : Bool
  sizeBits : Nat
  address : Nat
  wdata : Word
  deriving DecidableEq, Repr

/-- The T40 word of a bus access, none where the core does not decode its address (30_encoding.md R71, 20_memory.md
R51). -/
def BusAccess.t40? (r : BusAccess) : Option (BitVec 40) :=
  (offsetOf r.address).map fun offset =>
    t40 (BitVec.ofBool r.write) (BitVec.ofBool (r.sizeBits == 32)) offset (if r.write then r.wdata else 0)

/-- The host issues a bus access after the ones it has pending. One the core does not decode never reaches it
(20_memory.md R51). -/
def State.issue (s : State) (r : BusAccess) : State :=
  match r.t40? with
  | none => s
  | some t => s.issueWord t

/-- The byte of register value `v` on byte lane `lane` (`P_LANES`, 20_memory.md R57). -/
def laneByte (v : Word) (lane : Fin 4) : Byte := v.extractLsb' (8 * (Config.pLanes lane).val) 8

/-- The register value that the four byte lanes carry (`P_LANES`, 20_memory.md R57). -/
def valueOfLanes (lanes : Fin 4 → Byte) : Word :=
  be32 (lanes (Config.pLanes.symm 3)) (lanes (Config.pLanes.symm 2)) (lanes (Config.pLanes.symm 1))
    (lanes (Config.pLanes.symm 0))

/-- How a reply reaches the host as an error, if it is one (`P_BUSERR`, 00_scope.md R9). -/
def errorReport (r : Reply) : Option Config.BusErrorReport :=
  match r with
  | .data _ => none
  | .done => none
  | .busError => some Config.pBusErr
  | .lost => none

end Sys2Proof.Machine
end

