-- ==== Sys2Proof/Machine/Pseudo.lean ====
section
/-! DEFINITION. Host programs (30_encoding.md R79, R80): the pseudo-instructions, the assembler that expands them, the host
that runs the result, with WAITIDLE's loop, and the one-shot program of 43_sequencer.md R186. They are the host's, not the
core's. -/

namespace Sys2Proof.Machine

/-! ## The expansions (R80) -/

/-- `NOP`: WR CTRL, 0x0. -/
def pseudoNop : List Instr := [.wrCtrlNop 0]

/-- `INIT`: WR CTRL, 0x1. -/
def pseudoInit : List Instr := [.wrCtrlInit 0]

/-- `FINALIZE`: WR CTRL, 0x2. -/
def pseudoFinalize : List Instr := [.wrCtrlFinalize 0]

/-- `RDDIGEST`: RD DIGEST0 … RD DIGEST7, in order. -/
def pseudoRdDigest : List Instr := (List.range 8).map fun i => .rdDigest (BitVec.ofNat 3 i) 0

/-- `ABSORB [b0, b1, …]`, where `c` bytes were delivered since the last INIT: a DATA_WORD if c mod 4 = 0 and at least 4
bytes remain, otherwise a DATA_BYTE. -/
def pseudoAbsorb : Nat → List Byte → List Instr
  | _, [] => []
  | c, b0 :: b1 :: b2 :: b3 :: rest =>
    if c % 4 = 0 then .wrDataWord (be32 b0 b1 b2 b3) :: pseudoAbsorb (c + 4) rest
    else .wrDataByte (b0.setWidth 32) :: pseudoAbsorb (c + 1) (b1 :: b2 :: b3 :: rest)
  | c, b0 :: rest => .wrDataByte (b0.setWidth 32) :: pseudoAbsorb (c + 1) rest

/-! ## The assembler (R79, R80) -/

/-- A line of a host program: a transaction (R79) or a pseudo-instruction (R80). -/
inductive HostLine where
  | transaction (i : Instr)
  | nop
  | init
  | finalize
  | waitIdle
  | rdDigest
  | absorb (bytes : List Byte)
  deriving DecidableEq, Repr

/-- What a line expands to: a transaction to issue, or the program's one kind of loop, "repeat `RD STATUS -> s` until
s[2] = 0" (R80). -/
inductive HostOp where
  | issue (i : Instr)
  | waitIdle
  deriving DecidableEq, Repr

/-- The transaction is an INIT, written `INIT` or `WR CTRL, 0x1`. -/
def isInit (i : Instr) : Bool :=
  match i with
  | .wrCtrlNop _ => false
  | .wrCtrlInit _ => true
  | .wrCtrlFinalize _ => false
  | .wrCtrlRsv3 _ => false
  | .wrCtrlRsv4_7 _ _ => false
  | .wrCtrlRsv8_F _ _ => false
  | .wrDataWord _ => false
  | .wrDataByte _ => false
  | .wrStatus _ => false
  | .wrBitlen _ _ => false
  | .wrRsv _ _ => false
  | .wrDigest _ _ => false
  | .rdCtrl _ => false
  | .rdStatus _ => false
  | .rdDataWord _ => false
  | .rdDataByte _ => false
  | .rdBitlenHi _ => false
  | .rdBitlenLo _ => false
  | .rdRsv _ _ => false
  | .rdDigest _ _ => false
  | .busErrSize _ _ _ => false
  | .busErrAlignOdd _ _ _ => false
  | .busErrAlign2 _ _ _ => false

/-- The expansion of one line, where the program's ABSORBs delivered `c` bytes since its last INIT (R80). -/
def HostLine.expand (c : Nat) (line : HostLine) : List HostOp :=
  match line with
  | .transaction i => [.issue i]
  | .nop => pseudoNop.map .issue
  | .init => pseudoInit.map .issue
  | .finalize => pseudoFinalize.map .issue
  | .waitIdle => [.waitIdle]
  | .rdDigest => pseudoRdDigest.map .issue
  | .absorb bytes => (pseudoAbsorb c bytes).map .issue

/-- "the number of bytes the program's ABSORBs delivered since its last INIT" (R80), after one more line. -/
def HostLine.count (c : Nat) (line : HostLine) : Nat :=
  match line with
  | .transaction i => if isInit i then 0 else c
  | .nop => c
  | .init => 0
  | .finalize => c
  | .waitIdle => c
  | .rdDigest => c
  | .absorb bytes => c + bytes.length

/-- The rest of a program, expanded. "The assembler tracks it, because programs are straight-line" (R80). -/
def assembleFrom : Nat → List HostLine → List HostOp
  | _, [] => []
  | c, line :: rest => line.expand c ++ assembleFrom (line.count c) rest

/-- A whole program, expanded. DEDUCED: before the program's first INIT the count runs from its start (log 18). -/
def assemble (program : List HostLine) : List HostOp := assembleFrom 0 program

/-! ## The host that runs an assembled program -/

/-- The transaction by which an operation is performed. -/
def HostOp.transaction (op : HostOp) : Instr :=
  match op with
  | .issue i => i
  | .waitIdle => .rdStatus 0

/-- The reply ends the operation. WAITIDLE ends at a STATUS with s[2] = 0 (R80); a lost transaction must be reissued
(70_reset_and_hazards.md R262). -/
def HostOp.endedBy (op : HostOp) (r : Reply) : Bool :=
  match op, r with
  | .issue _, .data _ => true
  | .issue _, .done => true
  | .issue _, .busError => true
  | .issue _, .lost => false
  | .waitIdle, .data s => !s[2]
  | .waitIdle, .done => false
  | .waitIdle, .busError => false
  | .waitIdle, .lost => false

/-- The machine with a host that runs an assembled program on it. "The host has one outstanding transaction"
(20_memory.md R63): `outstanding` says that the first operation's transaction is issued and its reply not yet looked at. -/
structure HostRun where
  machine : State
  program : List HostOp
  outstanding : Bool
  deriving DecidableEq, Repr

/-- A host about to run `program` on `s`. -/
def HostRun.start (s : State) (program : List HostLine) : HostRun := ⟨s, assemble program, false⟩

/-- The newest reply ends the first operation. -/
def HostRun.endsFirst (r : HostRun) : Bool :=
  match r.program, r.machine.replies with
  | op :: _, reply :: _ => op.endedBy reply
  | [], _ => false
  | _ :: _, [] => false

/-- Once the outstanding transaction is performed or lost, the host looks at the reply and goes on to the next operation if
it ends this one. -/
def HostRun.settle (r : HostRun) : HostRun :=
  if r.outstanding && r.machine.pending.isEmpty then
    { r with program := if r.endsFirst then r.program.tail else r.program, outstanding := false }
  else r

/-- With nothing outstanding the host issues the transaction of its first operation. -/
def HostRun.submit (r : HostRun) : HostRun :=
  if r.outstanding then r
  else
    match r.program with
    | [] => r
    | op :: _ => { r with machine := r.machine.issueWord (encode op.transaction), outstanding := true }

/-- One step of the machine under the host's program. -/
def HostRun.step (r : HostRun) : Host.Outcome HostRun Fault Refusal :=
  let r := r.settle.submit
  match Sys2Proof.Machine.step r.machine with
  | .next t => .next { r with machine := t }
  | .fault f => .fault f
  | .refused f => .refused f

/-! ## The one-shot program -/

/-- The program `INIT; ABSORB m; FINALIZE; RDDIGEST` (43_sequencer.md R186). -/
def oneShotProgram (m : List Byte) : List Instr :=
  pseudoInit ++ pseudoAbsorb 0 m ++ pseudoFinalize ++ pseudoRdDigest

end Sys2Proof.Machine
end

