-- ==== Sys2Proof/Safety.lean ====
section
/-! DEFINITION. What the claims speak of: the invariants of 10_state.md R45, the end of a computation (43_sequencer.md
R182), runs without a reset event, and what of the core a rule can read. -/

namespace Sys2Proof.Machine

/-! ## The invariants -/

/-- The eight invariants of 10_state.md R45, in its order. -/
structure CoreState.R45 (c : CoreState) : Prop where
  busy_iff_full : c.busy = true ↔ c.bufCnt = 64
  idle_room : c.busy = false → c.bufCnt.toNat ≤ 63 ∧ c.fin = false ∧ c.pend2 = false
  count_of_bitlen : (c.mode = .empty ∨ c.mode = .absorbing) → c.busy = false →
    c.bufCnt.toNat = c.bitlen.toNat / 8 % 64
  empty_bitlen : c.mode = .empty → c.bitlen = 0
  finalized_idle : c.mode = .finalized → c.busy = false ∧ c.bufCnt = 0
  failed_recorded : c.mode = .failed → (c.errLen = true ∨ c.errCmd = true) ∧ c.ecause ≠ 0
  cause_iff : c.ecause = 0 ↔ c.errLen = false ∧ c.errCmd = false
  pend2_fin : c.pend2 = true → c.fin = true

/-- The invariant of the model: R45 and what makes it inductive. `bitlen_bytes` is 10_state.md R28; `data_block` says
that a block in flight that is not FINALIZE's ends at a multiple of 64 bytes (20_memory.md R52); `busy_mode` that a
block is in flight only in EMPTY or ABSORBING (43_sequencer.md R181); `update_round` that T is 63 in the update phase
(42_compressor.md R151); `empty_fresh` that in EMPTY the hash state is IV (44_register_access.md R204) and no second
padding block is due (41_padder.md R110); `cause_range` that ECAUSE is 0 to 4 (60_exceptions.md R231). -/
structure CoreState.Inv (c : CoreState) : Prop extends c.R45 where
  bitlen_bytes : c.bitlen.toNat % 8 = 0
  data_block : c.busy = true → c.fin = false → c.mode = .absorbing ∧ c.bitlen.toNat / 8 % 64 = 0
  busy_mode : c.busy = true → c.mode = .empty ∨ c.mode = .absorbing
  update_round : c.phase = .update → c.t = 63
  empty_fresh : c.mode = .empty → c.h = IV ∧ c.pend2 = false
  cause_range : c.ecause.toNat ≤ 4

/-- The machine's invariant: its core's. -/
def State.Inv (s : State) : Prop := s.core.Inv

/-! ## The end of a computation (43_sequencer.md R182) -/

/-- The computation has ended with a digest. -/
def CoreState.endedWithDigest (c : CoreState) : Prop := c.mode = .finalized ∧ c.busy = false

/-- The computation has ended without a digest. -/
def CoreState.endedWithoutDigest (c : CoreState) : Prop := c.mode = .failed

/-! ## Runs -/

/-- The turn is no reset event. -/
def Turn.isAgents (x : Turn) : Bool :=
  match x with
  | .engine => true
  | .host => true
  | .reset _ _ _ _ => false

/-- No reset event is among the turns to come. -/
def State.noReset (s : State) : Prop := ∀ x ∈ s.turns, x.isAgents = true

/-- `s` reaches `t` in `n` steps. -/
def reaches (n : Nat) (s t : State) : Prop := Sys2Proof.core.run n s = .next t

/-- Every step of the run of `n` steps from `s` answers a next state. -/
def runsSafely (n : Nat) (s : State) : Prop := ∃ t, reaches n s t

/-- The core is idle and the host has nothing pending: no agent has a step. -/
def State.quiet (s : State) : Prop := s.core.busy = false ∧ s.pending = []

/-! ## Errors -/

/-- The errors a transaction can be rejected for, each with its condition, in the order of 60_exceptions.md R234, items
3 to 6: "the first in this list decides the outcome". Which transaction can raise which is R232. -/
def errorConditions (i : Instr) (c : CoreState) : List (Bool × ErrorKind × Cause) :=
  let inMode : List (Bool × ErrorKind × Cause) :=
    [(c.mode == .failed, .cmd, .inFailed), (c.mode == .finalized, .cmd, .afterFinalize)]
  match i with
  | .wrCtrlNop _ => []
  | .wrCtrlInit _ => []
  | .wrCtrlFinalize _ => inMode
  | .wrCtrlRsv3 _ => [(true, .cmd, .reservedCmd)]
  | .wrCtrlRsv4_7 _ _ => [(true, .cmd, .reservedCmd)]
  | .wrCtrlRsv8_F _ _ => [(true, .cmd, .reservedCmd)]
  | .wrDataWord _ => inMode ++ [(dataWordMisaligned c, .cmd, .dataWordMisaligned), (lengthWouldOverflow c 32, .len, .lengthOverflow)]
  | .wrDataByte _ => inMode ++ [(lengthWouldOverflow c 8, .len, .lengthOverflow)]
  | .wrStatus _ => []
  | .wrBitlen _ _ => []
  | .wrRsv _ _ => []
  | .wrDigest _ _ => []
  | .rdCtrl _ => []
  | .rdStatus _ => []
  | .rdDataWord _ => []
  | .rdDataByte _ => []
  | .rdBitlenHi _ => []
  | .rdBitlenLo _ => []
  | .rdRsv _ _ => []
  | .rdDigest _ _ => []
  | .busErrSize _ _ _ => []
  | .busErrAlignOdd _ _ _ => []
  | .busErrAlign2 _ _ _ => []

/-- The error that decides the outcome, if any (60_exceptions.md R234). -/
def decidingError (i : Instr) (c : CoreState) : Option (ErrorKind × Cause) :=
  ((errorConditions i c).find? (·.1)).map (·.2)

/-! ## Blocks -/

/-- The message bytes a transaction delivers, in order (20_memory.md R52, R53). -/
def deliveredBytes (i : Instr) : List Byte :=
  match i with
  | .wrCtrlNop _ => []
  | .wrCtrlInit _ => []
  | .wrCtrlFinalize _ => []
  | .wrCtrlRsv3 _ => []
  | .wrCtrlRsv4_7 _ _ => []
  | .wrCtrlRsv8_F _ _ => []
  | .wrDataWord w => [dataWordB0 w, dataWordB1 w, dataWordB2 w, dataWordB3 w]
  | .wrDataByte w => [dataByteOperand w]
  | .wrStatus _ => []
  | .wrBitlen _ _ => []
  | .wrRsv _ _ => []
  | .wrDigest _ _ => []
  | .rdCtrl _ => []
  | .rdStatus _ => []
  | .rdDataWord _ => []
  | .rdDataByte _ => []
  | .rdBitlenHi _ => []
  | .rdBitlenLo _ => []
  | .rdRsv _ _ => []
  | .rdDigest _ _ => []
  | .busErrSize _ _ _ => []
  | .busErrAlignOdd _ _ _ => []
  | .busErrAlign2 _ _ _ => []

/-- The core stands at the start of a block: StartBlock has run and no round step yet (42_compressor.md R150). -/
def CoreState.atBlockStart (c : CoreState) : Bool := c.phase == .round && c.t == 0

/-- The blocks passed to StartBlock in the next `n` steps, in order: BUF wherever the core comes to stand at the start of
a block (41_padder.md R112). -/
def startedBlocks : Nat → State → List Block
  | 0, _ => []
  | n + 1, s =>
    match step s with
    | .next t =>
      (if t.core.atBlockStart && !s.core.atBlockStart then [t.core.buf] else []) ++ startedBlocks n t
    | .fault _ => []
    | .refused _ => []

/-! ## What a rule can read -/

/-- The turn with the values that a reset event draws replaced by 0: what 10_state.md R44 leaves unspecified. -/
def Turn.withoutDraws (x : Turn) : Turn :=
  match x with
  | .engine => .engine
  | .host => .host
  | .reset inProgress _ _ _ => .reset inProgress ⟨0, 0, 0, 0, 0, 0, 0, 0⟩ 0 (Vector.replicate 64 0)

/-- Two cores agree on all that a rule reads before it writes: every element but WV and T while IDLE, T while not
ROUND, and the bytes of BUF from BUF_CNT on (10_state.md R22, R26, R29, R44; 43_sequencer.md R183). -/
structure CoreState.agrees (c d : CoreState) : Prop where
  h : c.h = d.h
  mode : c.mode = d.mode
  phase : c.phase = d.phase
  fin : c.fin = d.fin
  pend2 : c.pend2 = d.pend2
  bitlen : c.bitlen = d.bitlen
  bufCnt : c.bufCnt = d.bufCnt
  errLen : c.errLen = d.errLen
  errCmd : c.errCmd = d.errCmd
  ecause : c.ecause = d.ecause
  wv : c.busy = true → c.wv = d.wv
  t : c.phase = .round → c.t = d.t
  buf : ∀ i, i < c.bufCnt.toNat → blockByte c.buf i = blockByte d.buf i

/-- The host and the environment do the same in both machines, but for the values a reset draws, and the host has seen
the same. -/
structure State.sameOutside (s u : State) : Prop where
  pending : s.pending = u.pending
  turns : s.turns.map Turn.withoutDraws = u.turns.map Turn.withoutDraws
  replies : s.replies = u.replies

/-- The same outside, and the cores agree on all that a rule can read. -/
structure State.agrees (s u : State) : Prop extends State.sameOutside s u where
  core : s.core.agrees u.core

end Sys2Proof.Machine
end

