-- ==== Sys2Proof/Certificates/Slice0/Obligations.lean ====
section
/-! DEFINITION. The statements for the provers. Each docstring names the rule of spec/ it formalises. -/

open Sys2Proof Sys2Proof.Machine

/-! ## Encoding (30_encoding.md) -/

/-- Decoding an encoded transaction gives it back, for every transaction and every operand (30_encoding.md R71, R74). -/
def Obligations.DecodeOfEncodeIsIdentity : Prop := ∀ i : Instr, decode (encode i) = i

/-- Encoding a decoded word gives it back: no bit of a T40 word is dropped, and two words never mean one transaction
(30_encoding.md R71, R78). -/
def Obligations.EncodeOfDecodeIsIdentity : Prop := ∀ t : BitVec 40, encode (decode t) = t

/-- R74: "Every T40 pattern falls in exactly one row", and it is the row of the transaction the decoder reads. -/
def Obligations.EveryWordFallsInExactlyItsRow : Prop :=
  ∀ t : BitVec 40, (opcodeTable.filter (·.matches t)).map (·.mnemonic) = [(decode t).mnemonic]

/-- R71's canonical form: a transaction is well-formed exactly when its word has WDATA = 0 if it is a read. -/
def Obligations.WellFormedIsCanonicalRead : Prop :=
  ∀ i : Instr, i.wf = true ↔ (t40Rw (encode i) = 0 → t40Wdata (encode i) = 0)

/-- Words written out from 30_encoding.md R74 and 95_test_vectors.md decode to the transactions they stand for. -/
def Obligations.SpecWordsDecode : Prop :=
  decode 0xc000000001 = .wrCtrlInit 0 ∧ decode 0xc012345670 = .wrCtrlNop 0x1234567 ∧
  decode 0xc000000002 = .wrCtrlFinalize 0 ∧ decode 0xc000000007 = .wrCtrlRsv4_7 0 3 ∧
  decode 0xc862636465 = .wrDataWord 0x62636465 ∧ decode 0xcc00000161 = .wrDataByte 0x161 ∧
  decode 0x4400000000 = .rdStatus 0 ∧ decode 0x5400000000 = .rdBitlenLo 0 ∧
  decode 0x7c00000000 = .rdDigest 7 0 ∧ decode 0xe000000000 = .wrDigest 0 0 ∧
  decode 0x8c00000061 = .busErrSize 1 0x0c 0x61 ∧ decode 0x4500000000 = .busErrAlignOdd 0 2 0 ∧
  decode 0xca00000000 = .busErrAlign2 1 2 0

/-- 30_encoding.md R73: the operands. A DATA_WORD is B0 ‖ B1 ‖ B2 ‖ B3; a DATA_BYTE is WDATA mod 256; DIGESTi sits at
OFFSET 0x20 + 4i; OFFSET[2] selects HI or LO of BITLEN. -/
def Obligations.OperandsAreAssembled : Prop :=
  (∀ w : Word, be32 (dataWordB0 w) (dataWordB1 w) (dataWordB2 w) (dataWordB3 w) = w) ∧
  (∀ w : Word, (dataByteOperand w).toNat = w.toNat % 256) ∧
  (∀ (i : BitVec 3) (w : Word), (t40Offset (encode (.rdDigest i w))).toNat = 0x20 + 4 * i.toNat) ∧
  (∀ w : Word, (t40Offset (encode (.rdBitlenHi w))).toNat = 0x10 ∧ (t40Offset (encode (.rdBitlenLo w))).toNat = 0x14) ∧
  (∀ (lo : BitVec 1) (w : Word), (t40Offset (encode (.wrBitlen lo w))).toNat = 0x10 + 4 * lo.toNat)

/-! ## The step (00_scope.md R14) -/

/-- A step runs the decoded transaction: where the host has the turn and its oldest pending transaction is not held, the
step is `exec` of it, with the turn used up and the transaction taken from the pending ones (20_memory.md R63). The
order of turns is the model's (log 2). -/
def Obligations.StepRunsDecodedTransaction : Prop :=
  ∀ (s : State) (w : BitVec 40) (rest : List (BitVec 40)) (ts : List Turn),
    s.pending = w :: rest → s.turns = .host :: ts → held (decode w) s.core = false →
    step s = exec (decode w) { s with pending := rest, turns := ts }

/-- The host's placing of one transaction (log 1): the very next step is `exec` of it at the same state. -/
def Obligations.PlacedTransactionRunsNext : Prop :=
  ∀ (s : State) (w : Nat), w < 2 ^ 40 → held (decode (BitVec.ofNat 40 w)) s.core = false →
    step (s.withFetchWord 40 w) = exec (decode (BitVec.ofNat 40 w)) s

/-- The other steps without a reset event. While BUSY = 1 the step is the engine's whenever the host has none (its oldest
transaction is held, or nothing is pending: 60_exceptions.md R236), the turn is the engine's, or no turn is left. While
BUSY = 0 the engine has no step (R246): the step is the host's whoever has the turn, and with nothing pending nothing but
the turn changes (log 14). The order of turns is the model's (log 2). -/
def Obligations.StepRunsTheEnabledAgent : Prop :=
  ∀ s : State, s.noReset →
    (s.core.busy = true → (headHeld s = true ∨ s.pending = [] ∨ s.turns.head? ≠ some .host) →
      step s = .next { s with core := engineStep s.core, turns := s.turns.tail }) ∧
    (s.core.busy = false → ∀ w rest, s.pending = w :: rest →
      step s = exec (decode w) { s with pending := rest, turns := s.turns.tail }) ∧
    (s.core.busy = false → s.pending = [] → step s = .next { s with turns := s.turns.tail })

/-! ## Holds and bus errors (44_register_access.md R200, R209) -/

/-- While BUSY = 1 every transaction but RD STATUS and a bus error is held: it has no effect (60_exceptions.md R236). -/
def Obligations.HeldTransactionHasNoEffect : Prop :=
  ∀ (i : Instr) (s : State), s.core.busy = true →
    ((∀ w, i ≠ .rdStatus w) ∧ (∀ rw o w, i ≠ .busErrSize rw o w) ∧ (∀ rw o w, i ≠ .busErrAlignOdd rw o w) ∧
      (∀ rw o w, i ≠ .busErrAlign2 rw o w)) →
    exec i s = .next s

/-- R209: a word with SZ4 = 0 or OFFSET[1:0] ≠ 00 is a bus error and no other word is; in every state, BUSY or not, it
completes with `buserr` and changes nothing of the core. -/
def Obligations.BusErrorsChangeNothing : Prop :=
  (∀ t : BitVec 40, (t40Sz4 t = 0 ∨ (t40Offset t).toNat % 4 ≠ 0) ↔
    (∃ rw o w, decode t = .busErrSize rw o w) ∨ (∃ rw o w, decode t = .busErrAlignOdd rw o w) ∨
      (∃ rw o w, decode t = .busErrAlign2 rw o w)) ∧
  (∀ (s : State) rw o w, exec (.busErrSize rw o w) s = .next { s with replies := .busError :: s.replies }) ∧
  (∀ (s : State) rw o w, exec (.busErrAlignOdd rw o w) s = .next { s with replies := .busError :: s.replies }) ∧
  (∀ (s : State) rw o w, exec (.busErrAlign2 rw o w) s = .next { s with replies := .busError :: s.replies })

/-! ## Reads (44_register_access.md) -/

/-- R201: RD STATUS completes in every state, never held, with
`MODE | BUSY<<2 | ERR_LEN<<3 | ERR_CMD<<4 | ECAUSE<<5 | BUF_CNT<<8`. -/
def Obligations.RdStatusReturnsStatus : Prop :=
  ∀ (w : Word) (s : State), exec (.rdStatus w) s = .next { s with
    replies := .data (s.core.mode.code.setWidth 32 ||| (BitVec.ofBool s.core.busy).setWidth 32 <<< 2 |||
      (BitVec.ofBool s.core.errLen).setWidth 32 <<< 3 ||| (BitVec.ofBool s.core.errCmd).setWidth 32 <<< 4 |||
      s.core.ecause.setWidth 32 <<< 5 ||| s.core.bufCnt.setWidth 32 <<< 8) :: s.replies }

/-- R202 and R203: the two halves of BITLEN, held while BUSY = 1. -/
def Obligations.RdBitlenReturnsHalves : Prop :=
  ∀ (w : Word) (s : State),
    (s.core.busy = true → exec (.rdBitlenHi w) s = .next s ∧ exec (.rdBitlenLo w) s = .next s) ∧
    (s.core.busy = false →
      exec (.rdBitlenHi w) s =
        .next { s with replies := .data (BitVec.ofNat 32 (s.core.bitlen.toNat / 2 ^ 32)) :: s.replies } ∧
      exec (.rdBitlenLo w) s =
        .next { s with replies := .data (BitVec.ofNat 32 (s.core.bitlen.toNat % 2 ^ 32)) :: s.replies })

/-- R204: RD DIGESTi returns H[i], held while BUSY = 1; in EMPTY it is IV[i], in a state that meets the invariant. -/
def Obligations.RdDigestReturnsHashWord : Prop :=
  ∀ (i : BitVec 3) (w : Word) (s : State),
    (s.core.busy = true → exec (.rdDigest i w) s = .next s) ∧
    (s.core.busy = false → exec (.rdDigest i w) s = .next { s with
      replies := .data ([s.core.h.a, s.core.h.b, s.core.h.c, s.core.h.d, s.core.h.e, s.core.h.f, s.core.h.g,
        s.core.h.h].getD i.toNat 0) :: s.replies }) ∧
    (s.core.busy = false → s.Inv → s.core.mode = .empty →
      exec (.rdDigest i w) s = .next { s with replies := .data (wordAt IV i.toNat) :: s.replies })

/-- R205 and R206: a read of a write-only register or of a reserved offset returns 0, held while BUSY = 1, and neither
absorbs nor commands anything. -/
def Obligations.RdWriteOnlyAndReservedReturnZero : Prop :=
  ∀ (lo : BitVec 1) (w : Word) (s : State),
    ∀ i ∈ [Instr.rdCtrl w, Instr.rdDataWord w, Instr.rdDataByte w, Instr.rdRsv lo w],
      (s.core.busy = true → exec i s = .next s) ∧
      (s.core.busy = false → exec i s = .next { s with replies := .data 0 :: s.replies })

/-! ## Writes with no effect and commands -/

/-- R207: a write to a read-only or reserved offset completes and changes nothing, whatever WDATA is, and is held while
BUSY = 1. It is not an IllegalCommand. -/
def Obligations.IgnoredWritesChangeNothing : Prop :=
  ∀ (lo : BitVec 1) (n : BitVec 3) (w : Word) (s : State),
    ∀ i ∈ [Instr.wrStatus w, Instr.wrBitlen lo w, Instr.wrRsv lo w, Instr.wrDigest n w],
      (s.core.busy = true → exec i s = .next s) ∧
      (s.core.busy = false → exec i s = .next { s with replies := .done :: s.replies })

/-- R174: NOP completes and changes nothing, whatever WDATA[31:4] is, and is held while BUSY = 1. -/
def Obligations.NopChangesNothing : Prop :=
  ∀ (ign : BitVec 28) (s : State),
    (s.core.busy = true → exec (.wrCtrlNop ign) s = .next s) ∧
    (s.core.busy = false → exec (.wrCtrlNop ign) s = .next { s with replies := .done :: s.replies })

/-- R175: INIT in every mode; BUF, WV, T and PHASE keep their values. Held while BUSY = 1. -/
def Obligations.InitStartsFreshComputation : Prop :=
  ∀ (ign : BitVec 28) (s : State),
    (s.core.busy = true → exec (.wrCtrlInit ign) s = .next s) ∧
    (s.core.busy = false → exec (.wrCtrlInit ign) s = .next { s with
      core := { h := IV, wv := s.core.wv, mode := .empty, phase := s.core.phase, t := s.core.t, fin := false,
                pend2 := false, bitlen := 0, buf := s.core.buf, bufCnt := 0, errLen := false, errCmd := false,
                ecause := 0 }
      replies := .done :: s.replies })

/-- R176: a reserved command is rejected with cause 2 in every mode: ERR_CMD is set, ECAUSE becomes 2 if it was 0, MODE
becomes FAILED if it was EMPTY or ABSORBING, and nothing else changes. Held while BUSY = 1. -/
def Obligations.ReservedCommandsAreRejected : Prop :=
  ∀ (ign : BitVec 28) (lo2 : BitVec 2) (lo3 : BitVec 3) (s : State),
    ∀ i ∈ [Instr.wrCtrlRsv3 ign, Instr.wrCtrlRsv4_7 ign lo2, Instr.wrCtrlRsv8_F ign lo3],
      (s.core.busy = true → exec i s = .next s) ∧
      (s.core.busy = false → exec i s = .next { s with
        core := { s.core with
          errCmd := true
          ecause := if s.core.ecause = 0 then 2 else s.core.ecause
          mode := if s.core.mode = .empty ∨ s.core.mode = .absorbing then .failed else s.core.mode }
        replies := .done :: s.replies })

/-! ## Absorbing and finalising (41_padder.md) -/

/-- R105: WR DATA_BYTE, every case. It is held while BUSY = 1; rejected in FAILED (cause 5), in FINALIZED (cause 4) and
when the bit length would pass 2^64 − 1 (cause 1), in this order; else it absorbs WDATA[7:0], and the byte that makes
BUF_CNT = 64 starts the engine. -/
def Obligations.DataByteAbsorbsOneByte : Prop :=
  ∀ (w : Word) (s : State),
    (s.core.busy = true → exec (.wrDataByte w) s = .next s) ∧
    (s.core.busy = false → s.core.mode = .failed →
      exec (.wrDataByte w) s =
        .next { s with core := reject .cmd .inFailed s.core, replies := .done :: s.replies }) ∧
    (s.core.busy = false → s.core.mode = .finalized →
      exec (.wrDataByte w) s =
        .next { s with core := reject .cmd .afterFinalize s.core, replies := .done :: s.replies }) ∧
    (s.core.busy = false → (s.core.mode = .empty ∨ s.core.mode = .absorbing) → s.core.bitlen.toNat > 2 ^ 64 - 1 - 8 →
      exec (.wrDataByte w) s =
        .next { s with core := reject .len .lengthOverflow s.core, replies := .done :: s.replies }) ∧
    (s.core.busy = false → (s.core.mode = .empty ∨ s.core.mode = .absorbing) → s.core.bitlen.toNat ≤ 2 ^ 64 - 1 - 8 →
      s.core.bufCnt.toNat ≤ 63 →
      exec (.wrDataByte w) s = .next { s with
        core := { s.core with
          buf := s.core.buf.setIfInBounds s.core.bufCnt.toNat (w.extractLsb' 0 8)
          bufCnt := BitVec.ofNat 7 (s.core.bufCnt.toNat + 1)
          bitlen := BitVec.ofNat 64 (s.core.bitlen.toNat + 8)
          mode := .absorbing
          wv := if s.core.bufCnt.toNat = 63 then s.core.h else s.core.wv
          t := if s.core.bufCnt.toNat = 63 then 0 else s.core.t
          phase := if s.core.bufCnt.toNat = 63 then .round else .idle }
        replies := .done :: s.replies })

/-- R106: WR DATA_WORD, every case. It is held while BUSY = 1; rejected in FAILED (cause 5), in FINALIZED (cause 4), when
BUF_CNT mod 4 ≠ 0 (cause 3) and when the bit length would pass 2^64 − 1 (cause 1), in this order; else it absorbs
WDATA[31:24], WDATA[23:16], WDATA[15:8], WDATA[7:0] in this order, and only the fourth byte can start the engine. -/
def Obligations.DataWordAbsorbsFourBytes : Prop :=
  ∀ (w : Word) (s : State),
    (s.core.busy = true → exec (.wrDataWord w) s = .next s) ∧
    (s.core.busy = false → s.core.mode = .failed →
      exec (.wrDataWord w) s =
        .next { s with core := reject .cmd .inFailed s.core, replies := .done :: s.replies }) ∧
    (s.core.busy = false → s.core.mode = .finalized →
      exec (.wrDataWord w) s =
        .next { s with core := reject .cmd .afterFinalize s.core, replies := .done :: s.replies }) ∧
    (s.core.busy = false → (s.core.mode = .empty ∨ s.core.mode = .absorbing) → s.core.bufCnt.toNat % 4 ≠ 0 →
      exec (.wrDataWord w) s =
        .next { s with core := reject .cmd .dataWordMisaligned s.core, replies := .done :: s.replies }) ∧
    (s.core.busy = false → (s.core.mode = .empty ∨ s.core.mode = .absorbing) → s.core.bufCnt.toNat % 4 = 0 →
      s.core.bitlen.toNat > 2 ^ 64 - 1 - 32 →
      exec (.wrDataWord w) s =
        .next { s with core := reject .len .lengthOverflow s.core, replies := .done :: s.replies }) ∧
    (s.core.busy = false → (s.core.mode = .empty ∨ s.core.mode = .absorbing) → s.core.bufCnt.toNat % 4 = 0 →
      s.core.bitlen.toNat ≤ 2 ^ 64 - 1 - 32 → s.core.bufCnt.toNat ≤ 63 →
      exec (.wrDataWord w) s = .next { s with
        core := { s.core with
          buf := (((s.core.buf.setIfInBounds s.core.bufCnt.toNat (w.extractLsb' 24 8)).setIfInBounds
            (s.core.bufCnt.toNat + 1) (w.extractLsb' 16 8)).setIfInBounds (s.core.bufCnt.toNat + 2)
            (w.extractLsb' 8 8)).setIfInBounds (s.core.bufCnt.toNat + 3) (w.extractLsb' 0 8)
          bufCnt := BitVec.ofNat 7 (s.core.bufCnt.toNat + 4)
          bitlen := BitVec.ofNat 64 (s.core.bitlen.toNat + 32)
          mode := .absorbing
          wv := if s.core.bufCnt.toNat = 60 then s.core.h else s.core.wv
          t := if s.core.bufCnt.toNat = 60 then 0 else s.core.t
          phase := if s.core.bufCnt.toNat = 60 then .round else .idle }
        replies := .done :: s.replies })

/-- R110: FINALIZE, every case. It is held while BUSY = 1 and rejected in FAILED (cause 5) and in FINALIZED (cause 4); else
the tail follows byte n = BUF_CNT: 0x80, then zeros, then, if n ≤ 55, the length field in this block, and if n ≥ 56 the
length field is left to a second block. BUF_CNT becomes 64 and the engine starts. MODE, BITLEN, H and the error fields
keep their values. -/
def Obligations.FinalizeAppendsTail : Prop :=
  ∀ (ign : BitVec 28) (s : State),
    (s.core.busy = true → exec (.wrCtrlFinalize ign) s = .next s) ∧
    (s.core.busy = false → s.core.mode = .failed →
      exec (.wrCtrlFinalize ign) s =
        .next { s with core := reject .cmd .inFailed s.core, replies := .done :: s.replies }) ∧
    (s.core.busy = false → s.core.mode = .finalized →
      exec (.wrCtrlFinalize ign) s =
        .next { s with core := reject .cmd .afterFinalize s.core, replies := .done :: s.replies }) ∧
    (s.core.busy = false → (s.core.mode = .empty ∨ s.core.mode = .absorbing) → s.core.bufCnt.toNat ≤ 63 →
      ∃ buf : Block,
        exec (.wrCtrlFinalize ign) s = .next { s with
          core := { s.core with
            buf := buf
            fin := true
            pend2 := decide (s.core.bufCnt.toNat ≥ 56)
            bufCnt := 64
            wv := s.core.h
            t := 0
            phase := .round }
          replies := .done :: s.replies } ∧
        (∀ i < s.core.bufCnt.toNat, blockByte buf i = blockByte s.core.buf i) ∧
        blockByte buf s.core.bufCnt.toNat = 0x80 ∧
        (∀ i, s.core.bufCnt.toNat < i → i < 64 → (i < 56 ∨ s.core.bufCnt.toNat ≥ 56) → blockByte buf i = 0) ∧
        (s.core.bufCnt.toNat ≤ 55 → ∀ k < 8, blockByte buf (56 + k) = be64 s.core.bitlen k))

/-- Outside the precondition of AbsorbByte (41_padder.md R104) and of FINALIZE's n in 0..63 (R110) the model stops with its
own fault, which is the model's choice (log 5). -/
def Obligations.AbsorbingPastTheBufferFaults : Prop :=
  ∀ (w : Word) (ign : BitVec 28) (s : State), s.core.busy = false → (s.core.mode = .empty ∨ s.core.mode = .absorbing) →
    s.core.bufCnt.toNat > 63 →
    (s.core.bitlen.toNat ≤ 2 ^ 64 - 1 - 8 → exec (.wrDataByte w) s = .fault .bufferOverrun) ∧
    (s.core.bufCnt.toNat % 4 = 0 → s.core.bitlen.toNat ≤ 2 ^ 64 - 1 - 32 →
      exec (.wrDataWord w) s = .fault .bufferOverrun) ∧
    exec (.wrCtrlFinalize ign) s = .fault .bufferOverrun

/-- A DATA_WORD has on the core the effect of its four bytes written by DATA_BYTE, most significant first (41_padder.md
R106, 20_memory.md R53). -/
def Obligations.DataWordEqualsFourDataBytes : Prop :=
  ∀ (w : Word) (s : State), s.core.busy = false → (s.core.mode = .empty ∨ s.core.mode = .absorbing) →
    s.core.bufCnt.toNat ≤ 63 → s.core.bufCnt.toNat % 4 = 0 → s.core.bitlen.toNat ≤ 2 ^ 64 - 1 - 32 →
    ∃ s1 s2 s3 s4 u, exec (.wrDataByte (w >>> 24)) s = .next s1 ∧ exec (.wrDataByte (w >>> 16)) s1 = .next s2 ∧
      exec (.wrDataByte (w >>> 8)) s2 = .next s3 ∧ exec (.wrDataByte w) s3 = .next s4 ∧
      exec (.wrDataWord w) s = .next u ∧ s4.core = u.core

/-- The block word that the compressor reads where a DATA_WORD was absorbed is the WDATA written (20_memory.md R53,
42_compressor.md R140). -/
def Obligations.DataWordReadsBackAsBlockWord : Prop :=
  ∀ (w : Word) (s u : State), s.core.busy = false → (s.core.mode = .empty ∨ s.core.mode = .absorbing) →
    s.core.bufCnt.toNat ≤ 63 → s.core.bufCnt.toNat % 4 = 0 → s.core.bitlen.toNat ≤ 2 ^ 64 - 1 - 32 →
    exec (.wrDataWord w) s = .next u → blockWord u.core.buf (s.core.bufCnt.toNat / 4) = w

/-! ## Errors (60_exceptions.md) -/

/-- R233: what `reject` records, field by field. -/
def Obligations.RejectRecordsFirstCause : Prop :=
  ∀ (kind : ErrorKind) (cause : Cause) (c : CoreState),
    reject kind cause c = { c with
      errLen := c.errLen || decide (kind = .len)
      errCmd := c.errCmd || decide (kind = .cmd)
      ecause := if c.ecause = 0 then cause.code else c.ecause
      mode := if c.mode = .empty ∨ c.mode = .absorbing then .failed else c.mode }

/-- R234: the first condition in the list decides the outcome of a transaction, and only that one is recorded: a bus error,
then a hold, then the errors in the order of `errorConditions`. Where none applies no error field changes, but for
INIT, which clears them. -/
def Obligations.FirstConditionDecides : Prop :=
  ∀ (i : Instr) (s : State),
    ((∃ rw o w, i = .busErrSize rw o w) ∨ (∃ rw o w, i = .busErrAlignOdd rw o w) ∨ (∃ rw o w, i = .busErrAlign2 rw o w) →
      exec i s = .next { s with replies := .busError :: s.replies }) ∧
    (held i s.core = true → exec i s = .next s) ∧
    (∀ kind cause, s.core.busy = false → decidingError i s.core = some (kind, cause) →
      exec i s = .next { s with core := reject kind cause s.core, replies := .done :: s.replies }) ∧
    (∀ t, (∀ ign, i ≠ .wrCtrlInit ign) → decidingError i s.core = none → exec i s = .next t →
      t.core.errLen = s.core.errLen ∧ t.core.errCmd = s.core.errCmd ∧ t.core.ecause = s.core.ecause)

/-- R235: a rejected transaction writes only ERR_LEN or ERR_CMD, ECAUSE and MODE; it absorbs no byte and starts no
block. While BUSY = 1 a transaction that could be rejected is held instead. -/
def Obligations.RejectionsArePrecise : Prop :=
  ∀ (i : Instr) (s : State) (kind : ErrorKind) (cause : Cause), decidingError i s.core = some (kind, cause) →
    (s.core.busy = true → exec i s = .next s) ∧
    (s.core.busy = false → ∃ t, exec i s = .next t ∧
      t.core = { s.core with errLen := t.core.errLen, errCmd := t.core.errCmd, ecause := t.core.ecause, mode := t.core.mode } ∧
      (kind = .len → t.core.errLen = true ∧ t.core.errCmd = s.core.errCmd) ∧
      (kind = .cmd → t.core.errCmd = true ∧ t.core.errLen = s.core.errLen) ∧
      t.core.ecause ≠ 0 ∧ t.core.busy = false ∧ t.core.mode ≠ .empty ∧ t.core.mode ≠ .absorbing)

/-! ## Word primitives, schedule (42_compressor.md) -/

/-- R130 to R132: add32 is addition modulo 2^32 in any grouping, shr is the quotient by 2^n, and rotr, for n in 1..31, is the union of the
two shifts: "Bit i of the result is bit (i + n) mod 32 of x". -/
def Obligations.AddWrapsShiftDividesRotateMoves : Prop :=
  (∀ x y : Word, (add32 x y).toNat = (x.toNat + y.toNat) % 2 ^ 32) ∧
  (∀ x y z : Word, add32 (add32 x y) z = add32 x (add32 y z) ∧ add32 x y = add32 y x) ∧
  (∀ (x : Word) (n : Nat), (shr x n).toNat = x.toNat / 2 ^ n) ∧
  (∀ (x : Word) (n i : Nat), 1 ≤ n → n ≤ 31 → i < 32 →
    rotr x n = shr x n ||| (x <<< (32 - n)) ∧ (rotr x n).getLsbD i = x.getLsbD ((i + n) % 32))

/-- R134 to R137, bit by bit. -/
def Obligations.SigmasBitwise : Prop :=
  ∀ (x : Word) (i : Nat), i < 32 →
    (smallSigma0 x).getLsbD i =
      ((x.getLsbD ((i + 7) % 32) ^^ x.getLsbD ((i + 18) % 32)) ^^ (decide (i + 3 < 32) && x.getLsbD (i + 3))) ∧
    (smallSigma1 x).getLsbD i =
      ((x.getLsbD ((i + 17) % 32) ^^ x.getLsbD ((i + 19) % 32)) ^^ (decide (i + 10 < 32) && x.getLsbD (i + 10))) ∧
    (bigSigma0 x).getLsbD i = ((x.getLsbD ((i + 2) % 32) ^^ x.getLsbD ((i + 13) % 32)) ^^ x.getLsbD ((i + 22) % 32)) ∧
    (bigSigma1 x).getLsbD i = ((x.getLsbD ((i + 6) % 32) ^^ x.getLsbD ((i + 11) % 32)) ^^ x.getLsbD ((i + 25) % 32))

/-- R138 and R139: each bit of x chooses between y and z, and each bit of Maj is the majority of the three. -/
def Obligations.ChooseAndMajorityBitwise : Prop :=
  ∀ (x y z : Word) (i : Nat), i < 32 →
    (ch x y z).getLsbD i = (if x.getLsbD i then y.getLsbD i else z.getLsbD i) ∧
    (maj x y z).getLsbD i = decide ((x.getLsbD i).toNat + (y.getLsbD i).toNat + (z.getLsbD i).toNat ≥ 2)

/-- R140 and R141: the schedule has 64 words, the first 16 are the block's big-endian words, and each later one follows
the recurrence. -/
def Obligations.ScheduleFollowsRecurrence : Prop :=
  ∀ b : Block,
    (sched b).length = 64 ∧
    (∀ j < 16, schedWord b j =
      be32 (blockByte b (4 * j)) (blockByte b (4 * j + 1)) (blockByte b (4 * j + 2)) (blockByte b (4 * j + 3))) ∧
    (∀ i, 16 ≤ i → i < 64 → schedWord b i =
      smallSigma1 (schedWord b (i - 2)) + schedWord b (i - 7) + smallSigma0 (schedWord b (i - 15)) + schedWord b (i - 16))

/-! ## The engine (42_compressor.md) and the sequencer (43_sequencer.md) -/

/-- R151 and R142: a round step performs the round function with K[T] and Sched(BUF)[T] on the old working registers; after
round 63 the phase is UPDATE, else T goes up by one; nothing but WV, T and PHASE changes. -/
def Obligations.RoundStepRunsRoundT : Prop :=
  ∀ c : CoreState, c.phase = .round →
    let t1 := c.wv.h + bigSigma1 c.wv.e + ch c.wv.e c.wv.f c.wv.g + K c.t.toNat + schedWord c.buf c.t.toNat
    let t2 := bigSigma0 c.wv.a + maj c.wv.a c.wv.b c.wv.c
    let wv : EightWords := ⟨t1 + t2, c.wv.a, c.wv.b, c.wv.c, c.wv.d + t1, c.wv.e, c.wv.f, c.wv.g⟩
    (c.t.toNat = 63 → engineStep c = { c with wv := wv, phase := .update }) ∧
    (c.t.toNat < 63 → engineStep c = { c with wv := wv, t := BitVec.ofNat 6 (c.t.toNat + 1) })

/-- R152, R180 and R111: the update step adds WV into H; then, if FIN = 1 and PEND2 = 1, the second padding block (56 zero
bytes and the length field) starts in the same step; if FIN = 1 and PEND2 = 0 the mode becomes FINALIZED and the engine
idle; if FIN = 0 the engine becomes idle. -/
def Obligations.UpdateStepAccumulatesAndSequences : Prop :=
  ∀ c : CoreState, c.phase = .update →
    let sum : EightWords := ⟨c.h.a + c.wv.a, c.h.b + c.wv.b, c.h.c + c.wv.c, c.h.d + c.wv.d, c.h.e + c.wv.e,
      c.h.f + c.wv.f, c.h.g + c.wv.g, c.h.h + c.wv.h⟩
    (c.fin = true → c.pend2 = true → ∃ buf : Block,
      engineStep c = { c with h := sum, wv := sum, buf := buf, pend2 := false, bufCnt := 64, t := 0, phase := .round } ∧
      (∀ i < 56, blockByte buf i = 0) ∧ (∀ k < 8, blockByte buf (56 + k) = be64 c.bitlen k)) ∧
    (c.fin = true → c.pend2 = false →
      engineStep c = { c with h := sum, bufCnt := 0, fin := false, mode := .finalized, phase := .idle }) ∧
    (c.fin = false → engineStep c = { c with h := sum, bufCnt := 0, phase := .idle })

/-- R153: from a StartBlock, 64 round steps run rounds 0..63 in order and lead to the update phase, and the update step then
makes H = Compress(H0, B). -/
def Obligations.EngineComputesCompress : Prop :=
  ∀ c : CoreState,
    (∀ n < 64, engineStep^[n] (startBlock c) =
      { startBlock c with wv := rounds c.buf c.h n, t := BitVec.ofNat 6 n }) ∧
    engineStep^[64] (startBlock c) = { startBlock c with wv := rounds c.buf c.h 64, t := 63, phase := .update } ∧
    (engineStep^[65] (startBlock c)).h = compress c.h c.buf

/-- 42_compressor.md R154: the engine's control depends on PHASE, T, FIN and PEND2 alone, so no data value changes how many
steps it takes. -/
def Obligations.EngineControlIgnoresData : Prop :=
  ∀ (c d : CoreState) (n : Nat), c.phase = d.phase → c.t = d.t → c.fin = d.fin → c.pend2 = d.pend2 →
    (engineStep^[n] c).phase = (engineStep^[n] d).phase ∧ (engineStep^[n] c).t = (engineStep^[n] d).t ∧
    (engineStep^[n] c).fin = (engineStep^[n] d).fin ∧ (engineStep^[n] c).pend2 = (engineStep^[n] d).pend2

/-- The step counts of 70_reset_and_hazards.md R271: 65 engine steps after a write that completes a data block and after a
FINALIZE with BUF_CNT ≤ 55, which ends in FINALIZED; 130 after a FINALIZE with BUF_CNT in 56..63. BUSY is 1 until the
last of them. -/
def Obligations.EngineStepCounts : Prop :=
  (∀ c : CoreState, c.fin = false →
    (∀ n < 65, (engineStep^[n] (startBlock c)).busy = true) ∧
    (engineStep^[65] (startBlock c)).busy = false ∧ (engineStep^[65] (startBlock c)).mode = c.mode) ∧
  (∀ c : CoreState, c.bufCnt.toNat ≤ 55 →
    (∀ n < 65, (engineStep^[n] (finalizeTail c)).busy = true ∧ (engineStep^[n] (finalizeTail c)).mode = c.mode) ∧
    (engineStep^[65] (finalizeTail c)).busy = false ∧ (engineStep^[65] (finalizeTail c)).mode = .finalized) ∧
  (∀ c : CoreState, 56 ≤ c.bufCnt.toNat → c.bufCnt.toNat ≤ 63 →
    (∀ n < 130, (engineStep^[n] (finalizeTail c)).busy = true ∧ (engineStep^[n] (finalizeTail c)).mode = c.mode) ∧
    (engineStep^[130] (finalizeTail c)).busy = false ∧ (engineStep^[130] (finalizeTail c)).mode = .finalized)

/-! ## The padding function (41_padder.md) -/

/-- R101: the postconditions of `pad`. -/
def Obligations.PadMeetsPostconditions : Prop :=
  ∀ (m : List Byte) (bs : List Block), pad m = some bs →
    let p := bs.flatMap Vector.toList
    p.length % 64 = 0 ∧ 0 < p.length ∧ p.take m.length = m ∧ p[m.length]? = some 0x80 ∧
    (∀ i, m.length < i → i < p.length - 8 → p[i]? = some 0) ∧
    p.drop (p.length - 8) = be64Bytes (BitVec.ofNat 64 (8 * m.length))

/-- R102: the number of blocks is ⌊(L + 8) / 64⌋ + 1, and the padded length is L + 9 + z with z = (55 − L) mod 64. -/
def Obligations.PadSizes : Prop :=
  ∀ (m : List Byte) (bs : List Block), pad m = some bs →
    bs.length = (m.length + 8) / 64 + 1 ∧
    ((64 * bs.length : Nat) : Int) = m.length + 9 + (55 - (m.length : Int)) % 64

/-- R103: `pad` fails exactly for messages of 2^61 bytes or more, and so does Digest (43_sequencer.md R170). -/
def Obligations.PadFailsOnOverlongMessages : Prop :=
  ∀ m : List Byte, (pad m = none ↔ m.length ≥ 2 ^ 61) ∧ (digest m = none ↔ m.length ≥ 2 ^ 61)

/-! ## Reset (70_reset_and_hazards.md) -/

/-- R44 and R260: after reset, whatever the unspecified elements hold, every other element has its reset value, STATUS reads
0 and DIGESTi reads IV[i]. The state after reset is one of these; its zeros in WV, T and BUF are the model's choice
(log 3) and nothing here rests on them. -/
def Obligations.ResetValues : Prop :=
  (∀ wv t buf, let c := CoreState.afterReset wv t buf
    c.h = IV ∧ c.mode = .empty ∧ c.phase = .idle ∧ c.fin = false ∧ c.pend2 = false ∧ c.bitlen = 0 ∧ c.bufCnt = 0 ∧
    c.errLen = false ∧ c.errCmd = false ∧ c.ecause = 0 ∧ status c = 0 ∧
    (∀ s : State, s.core = c → ∀ (i : BitVec 3) (w : Word),
      exec (.rdDigest i w) s = .next { s with replies := .data (wordAt IV i.toNat) :: s.replies })) ∧
  (∃ wv t buf, State.reset.core = CoreState.afterReset wv t buf)

/-- R260 and R261: a reset event takes effect in every state, BUSY or not: a block in flight is abandoned and never reaches
H. The unspecified elements take drawn values. The oldest pending transaction is lost if it was in progress or held
(R262: the model takes the second of the two treatments that rule allows, log 9). -/
def Obligations.ResetEventAbandonsBlock : Prop :=
  ∀ (s : State) (inProgress : Bool) (wv : EightWords) (t : BitVec 6) (buf : Block) (ts : List Turn),
    s.turns = .reset inProgress wv t buf :: ts →
    ∃ u, step s = .next u ∧ u.core = CoreState.afterReset wv t buf ∧ u.turns = ts ∧
      ((inProgress = true ∨ headHeld s = true) → s.pending ≠ [] →
        u.pending = s.pending.tail ∧ u.replies = .lost :: s.replies) ∧
      ((inProgress = false ∧ headHeld s = false) ∨ s.pending = [] → u.pending = s.pending ∧ u.replies = s.replies)

/-! ## Invariants (10_state.md R45) -/

/-- The invariant holds after reset, whatever the unspecified elements hold. -/
def Obligations.InvariantHoldsAtReset : Prop :=
  State.reset.Inv ∧ ∀ wv t buf, (CoreState.afterReset wv t buf).Inv

/-- Every step from a state that meets the invariant leads to one that meets it (10_state.md R45 and what makes it
inductive). -/
def Obligations.StepKeepsInvariant : Prop := ∀ s t : State, s.Inv → step s = .next t → t.Inv

/-- From a state that meets the invariant no step faults and none is refused. -/
def Obligations.InvariantExcludesStops : Prop := ∀ s : State, s.Inv → ∃ t, step s = .next t

/-- R45: every state that a run from reset reaches, whatever the host issues, in whatever order the agents move and
whatever reset events come, satisfies the eight invariants, and the run never stops. BITLEN counts whole bytes
(R28). -/
def Obligations.ReachableStatesSatisfyR45 : Prop :=
  ∀ (wv : EightWords) (t0 : BitVec 6) (buf : Block) (pending : List (BitVec 40)) (turns : List Turn)
    (replies : List Reply) (n : Nat),
    ∃ t, reaches n { core := CoreState.afterReset wv t0 buf, pending, turns, replies } t ∧ t.core.R45 ∧
      t.core.bitlen.toNat % 8 = 0 ∧ t.core.bitlen.toNat ≤ 2 ^ 64 - 8

/-! ## Whole-machine rules -/

/-- R21: H changes only by INIT, by reset and by the update step. -/
def Obligations.HashStateChangesOnlyByUpdateInitReset : Prop :=
  ∀ s t : State, step s = .next t →
    t.core.h = s.core.h ∨
    (∃ p wv r b ts, s.turns = .reset p wv r b :: ts ∧ t.core.h = IV) ∨
    (s.core.busy = false ∧ (∃ w rest ign, s.pending = w :: rest ∧ decode w = .wrCtrlInit ign) ∧ t.core.h = IV) ∨
    (s.core.phase = .update ∧ t.core.h = addWords s.core.h s.core.wv)

/-- The mode machine of R181: every step from a state that meets the invariant keeps MODE or makes one of the table's
transitions, for the table's reason. -/
def Obligations.ModeChangesOnlyByTable : Prop :=
  ∀ s t : State, s.Inv → step s = .next t →
    t.core.mode = s.core.mode ∨
    (t.core.mode = .empty ∧ ((∃ p wv r b ts, s.turns = .reset p wv r b :: ts) ∨
      (∃ w rest ign, s.pending = w :: rest ∧ decode w = .wrCtrlInit ign))) ∨
    ((s.core.mode = .empty ∨ s.core.mode = .absorbing) ∧
      ((t.core.mode = .absorbing ∧ t.core.bitlen.toNat > s.core.bitlen.toNat ∧
          ∃ w rest, s.pending = w :: rest ∧ deliveredBytes (decode w) ≠ []) ∨
        (t.core.mode = .finalized ∧ s.core.phase = .update ∧ s.core.fin = true ∧ s.core.pend2 = false) ∨
        (t.core.mode = .failed ∧ ∃ w rest e, s.pending = w :: rest ∧ decidingError (decode w) s.core = some e)))

/-- R182 and R24: FINALIZED is left only by INIT and reset, and until then the digest stays in H, whatever the host issues. -/
def Obligations.DigestSurvivesUntilInit : Prop :=
  ∀ (s t : State) (n : Nat), s.core.endedWithDigest → s.noReset →
    (∀ w ∈ s.pending, ∀ ign, decode w ≠ .wrCtrlInit ign) → reaches n s t →
    t.core.endedWithDigest ∧ t.core.h = s.core.h ∧ t.core.bitlen = s.core.bitlen

/-- R64: from a state that meets the invariant, an engine step changes of STATUS nothing, or BUSY from 1 to 0 and BUF_CNT
from 64 to 0 and perhaps MODE to FINALIZED. -/
def Obligations.EngineStepShowsOnlyCompletion : Prop :=
  ∀ c : CoreState, c.Inv → c.busy = true →
    status (engineStep c) = status c ∨
    (c.bufCnt = 64 ∧ (engineStep c).busy = false ∧ (engineStep c).bufCnt = 0 ∧
      ((engineStep c).mode = c.mode ∨ (engineStep c).mode = .finalized) ∧ (engineStep c).errLen = c.errLen ∧
      (engineStep c).errCmd = c.errCmd ∧ (engineStep c).ecause = c.ecause)

/-- The frame of every transaction when it gives a next state. No transaction changes what the host has pending or the turns,
and each gives at most one reply. Reads, ignored writes, NOP and bus errors change nothing of the core (20_memory.md R60).
A write that absorbs changes no byte of BUF outside the ones it stores from BUF_CNT on, and not FIN, PEND2 or H
(41_padder.md R105, R106). FINALIZE changes no byte of BUF below BUF_CNT (R110). Commands other than FINALIZE change no
byte of BUF, and neither WV, T nor PHASE (43_sequencer.md R174 to R176). -/
def Obligations.TransactionFrames : Prop :=
  ∀ (i : Instr) (s t : State), exec i s = .next t →
    t.pending = s.pending ∧ t.turns = s.turns ∧ (t.replies = s.replies ∨ ∃ r, t.replies = r :: s.replies) ∧
    (match i with
      | .wrDataByte _ | .wrDataWord _ =>
        t.core.h = s.core.h ∧ t.core.fin = s.core.fin ∧ t.core.pend2 = s.core.pend2 ∧
        (∀ j < 64, (j < s.core.bufCnt.toNat ∨ s.core.bufCnt.toNat + (deliveredBytes i).length ≤ j) →
          blockByte t.core.buf j = blockByte s.core.buf j)
      | .wrCtrlFinalize _ =>
        t.core.h = s.core.h ∧ t.core.bitlen = s.core.bitlen ∧
        (∀ j < s.core.bufCnt.toNat, blockByte t.core.buf j = blockByte s.core.buf j)
      | .wrCtrlInit _ =>
        t.core.buf = s.core.buf ∧ t.core.wv = s.core.wv ∧ t.core.t = s.core.t ∧ t.core.phase = s.core.phase
      | .wrCtrlRsv3 _ | .wrCtrlRsv4_7 _ _ | .wrCtrlRsv8_F _ _ =>
        t.core = { s.core with errCmd := t.core.errCmd, ecause := t.core.ecause, mode := t.core.mode }
      | .wrCtrlNop _ | .wrStatus _ | .wrBitlen _ _ | .wrRsv _ _ | .wrDigest _ _ | .rdCtrl _ | .rdStatus _ | .rdDataWord _
      | .rdDataByte _ | .rdBitlenHi _ | .rdBitlenLo _ | .rdRsv _ _ | .rdDigest _ _ | .busErrSize _ _ _
      | .busErrAlignOdd _ _ _ | .busErrAlign2 _ _ _ => t.core = s.core)

/-- What no rule reads before it writes it is invisible: from two states that agree on all the rest, one of which meets the
invariant, a step leads to two states that agree on all the rest, with the same replies (10_state.md R44). -/
def Obligations.UnreadStateIsInvisible : Prop :=
  ∀ s u : State, s.Inv → s.agrees u → ∀ t, step s = .next t → ∃ v, step u = .next v ∧ t.agrees v

/-- R183: what came before INIT does not matter. From two idle states with any cores, where the host does the same and issues
INIT next, every run gives the same replies and agrees on all that a rule reads. -/
def Obligations.InitForgetsThePast : Prop :=
  ∀ (s u : State) (w : BitVec 40) (rest : List (BitVec 40)) (ign : BitVec 28) (n : Nat),
    s.core.busy = false → u.core.busy = false → s.sameOutside u → s.pending = w :: rest → decode w = .wrCtrlInit ign →
    ∃ t v, reaches (n + 1) s t ∧ reaches (n + 1) u v ∧ t.agrees v

/-- A held transaction is performed within 130 engine steps, and until then it stays pending and unanswered
(60_exceptions.md R236, 70_reset_and_hazards.md R266), in a state that meets the invariant and with no reset event. -/
def Obligations.HoldIsLiftedWithin130Steps : Prop :=
  ∀ s : State, s.Inv → s.noReset → headHeld s = true →
    ∃ n t, n ≤ 130 ∧ reaches n s t ∧ t.core.busy = false ∧ t.pending = s.pending ∧ t.replies = s.replies ∧
      hostEnabled t = true

/-- The engine is treated fairly (70_reset_and_hazards.md R270): however the host polls, a block in flight is finished once
the turns the environment chose are used up and 130 more steps are taken. That no turn left means the engine's turn is
the model's form of the assumption (log 2). -/
def Obligations.EngineIsNeverStarved : Prop :=
  ∀ s : State, s.Inv → s.noReset → ∃ n t, n ≤ s.turns.length + 130 ∧ reaches n s t ∧ t.core.busy = false

/-- 20_memory.md R63 (4): the final core does not depend on how engine steps interleave with the host's. Two runs from states
with one core and the same pending transactions, with any turns but reset events, end in the same core. -/
def Obligations.FinalStateIgnoresInterleaving : Prop :=
  ∀ (s u t v : State) (n m : Nat), s.core = u.core → s.pending = u.pending → s.noReset → u.noReset →
    reaches n s t → reaches m u v → t.quiet → v.quiet → t.core = v.core

/-! ## The computation as a whole -/

/-- R112: if a computation absorbs the bytes of m, by any mix of DATA_BYTE and DATA_WORD writes, and ends in FINALIZED (so
that nothing was rejected), the blocks passed to StartBlock are `pad(m)`'s, in order, each once. -/
def Obligations.StartedBlocksAreThePadding : Prop :=
  ∀ (s t : State) (ws : List Instr) (bs : List Block) (n : Nat), s.core.busy = false → s.noReset →
    (∀ i ∈ ws, deliveredBytes i ≠ []) →
    s.pending = (pseudoInit ++ ws ++ pseudoFinalize).map encode →
    reaches n s t → t.quiet → t.core.mode = .finalized →
    pad (ws.flatMap deliveredBytes) = some bs → startedBlocks n s = bs

/-- The digest of a computation (43_sequencer.md R170, R182): if it absorbs the bytes of m by any mix of DATA_BYTE and
DATA_WORD writes and ends in FINALIZED, H serialised big-endian is Digest(m). -/
def Obligations.FinalizedHashIsTheDigest : Prop :=
  ∀ (s t : State) (ws : List Instr) (n : Nat), s.core.busy = false → s.noReset →
    (∀ i ∈ ws, deliveredBytes i ≠ []) →
    s.pending = (pseudoInit ++ ws ++ pseudoFinalize).map encode →
    reaches n s t → t.quiet → t.core.mode = .finalized →
    digest (ws.flatMap deliveredBytes) = some (serialize t.core.h)

/-- R186, the one-shot contract: from any state with BUSY = 0, for any message of at most 2^61 − 1 bytes and any order of the
agents' steps without a reset event, the program INIT; ABSORB m; FINALIZE; RDDIGEST ends with MODE = FINALIZED and no
error, and the eight words read, serialised big-endian, are Digest(m). -/
def Obligations.OneShotContract : Prop :=
  ∀ (s : State) (m : List Byte), s.core.busy = false → s.noReset → m.length ≤ 2 ^ 61 - 1 →
    s.pending = (oneShotProgram m).map encode →
    ∃ n t, reaches n s t ∧ t.quiet ∧ t.core.mode = .finalized ∧ t.core.errLen = false ∧ t.core.errCmd = false ∧
      ∃ words : List Word, t.replies.take 8 = (words.map Reply.data).reverse ∧ digest m = some (words.flatMap beBytes32)

/-- 20_memory.md R51: the core decodes exactly the addresses P_BASE .. P_BASE + 0x3F, at OFFSET = address − P_BASE, and
P_BASE is a multiple of 64. -/
def Obligations.WindowIsDecodedAtBase : Prop :=
  Config.pBase % 64 = 0 ∧
  (∀ (a : Nat) (o : BitVec 6), offsetOf a = some o ↔ a = Config.pBase + o.toNat)
end

