-- ==== Sys2Proof/Laws/Encoding.lean ====
section
/-! SUPPORT. The fields of a T40 word put together and taken apart (30_encoding.md R71). -/

namespace Sys2Proof

theorem t40_getLsbD (rw sz : BitVec 1) (o : BitVec 6) (w : Word) (i : Nat) :
    (t40 rw sz o w).getLsbD i = if i < 32 then w.getLsbD i else if i < 38 then o.getLsbD (i - 32)
      else if i < 39 then sz.getLsbD (i - 38) else rw.getLsbD (i - 39) := by
  change BitVec.getLsbD (w := 1 + 1 + 6 + 32) (rw ++ sz ++ o ++ w) i = _
  simp only [BitVec.getLsbD_append]
  by_cases h1 : i < 32
  · simp [h1]
  by_cases h2 : i < 38
  · simp [h1, h2, show i - 32 < 6 by omega]
  by_cases h3 : i < 39
  · obtain rfl : i = 38 := by omega
    simp
  · simp [h1, h2, h3, show ¬ i - 32 < 6 by omega, show ¬ i - 32 - 6 < 1 by omega, show i - 32 - 6 - 1 = i - 39 by omega]

@[simp] theorem t40Rw_t40 (rw sz : BitVec 1) (o : BitVec 6) (w : Word) : t40Rw (t40 rw sz o w) = rw := by
  refine BitVec.eq_of_getLsbD_eq fun i hi => ?_
  simp only [t40Rw, BitVec.getLsbD_extractLsb', hi, t40_getLsbD, decide_true, Bool.true_and]
  simp [show ¬ 39 + i < 32 by omega, show ¬ 39 + i < 38 by omega]

@[simp] theorem t40Sz4_t40 (rw sz : BitVec 1) (o : BitVec 6) (w : Word) : t40Sz4 (t40 rw sz o w) = sz := by
  refine BitVec.eq_of_getLsbD_eq fun i hi => ?_
  simp only [t40Sz4, BitVec.getLsbD_extractLsb', hi, t40_getLsbD, decide_true, Bool.true_and]
  simp [show ¬ 38 + i < 32 by omega, show 38 + i < 39 by omega]

@[simp] theorem t40Offset_t40 (rw sz : BitVec 1) (o : BitVec 6) (w : Word) : t40Offset (t40 rw sz o w) = o := by
  refine BitVec.eq_of_getLsbD_eq fun i hi => ?_
  simp only [t40Offset, BitVec.getLsbD_extractLsb', hi, t40_getLsbD, decide_true, Bool.true_and]
  simp [show 32 + i < 38 by omega]

@[simp] theorem t40Wdata_t40 (rw sz : BitVec 1) (o : BitVec 6) (w : Word) : t40Wdata (t40 rw sz o w) = w := by
  refine BitVec.eq_of_getLsbD_eq fun i hi => ?_
  simp only [t40Wdata, BitVec.getLsbD_extractLsb', hi, t40_getLsbD, decide_true, Bool.true_and]
  simp [hi]

/-- A word is its four fields. -/
theorem t40_of_fields (t : BitVec 40) : t40 (t40Rw t) (t40Sz4 t) (t40Offset t) (t40Wdata t) = t := by
  refine BitVec.eq_of_getLsbD_eq fun i hi => ?_
  simp only [t40_getLsbD, t40Rw, t40Sz4, t40Offset, t40Wdata, BitVec.getLsbD_extractLsb']
  split_ifs with h1 h2 h3
  · simp [h1]
  · simp [show i - 32 < 6 by omega, show 32 + (i - 32) = i by omega]
  · simp [show i - 38 < 1 by omega, show 38 + (i - 38) = i by omega]
  · simp [show i - 39 < 1 by omega, show 39 + (i - 39) = i by omega]

/-- The decoder on a word given by its fields. -/
theorem decode_t40 (rw sz : BitVec 1) (o : BitVec 6) (w : Word) : decode (t40 rw sz o w) =
    if sz = 0 then .busErrSize rw o w
    else if o.extractLsb' 0 1 = 1 then .busErrAlignOdd rw (o.extractLsb' 1 5) w
    else if o.extractLsb' 0 2 = 2 then .busErrAlign2 rw (o.extractLsb' 2 4) w
    else if rw = 1 then decodeWrite (o.extractLsb' 2 4) w
    else decodeRead (o.extractLsb' 2 4) w := by
  simp only [decode, t40Rw_t40, t40Sz4_t40, t40Offset_t40, t40Wdata_t40]

/-- The decoder of CTRL writes on WDATA given as WDATA[31:4] and CMD. -/
theorem decodeCtrlWrite_append (ign : BitVec 28) (cmd : BitVec 4) : decodeCtrlWrite (ign ++ cmd) =
    if cmd = 0 then .wrCtrlNop ign
    else if cmd = 1 then .wrCtrlInit ign
    else if cmd = 2 then .wrCtrlFinalize ign
    else if cmd = 3 then .wrCtrlRsv3 ign
    else if cmd.extractLsb' 2 2 = 1 then .wrCtrlRsv4_7 ign (cmd.extractLsb' 0 2)
    else .wrCtrlRsv8_F ign (cmd.extractLsb' 0 3) := by
  have h1 : (ign ++ cmd : BitVec 32).extractLsb' 4 28 = ign := BitVec.extractLsb'_append_eq_left
  have h2 : (ign ++ cmd : BitVec 32).extractLsb' 0 4 = cmd := BitVec.extractLsb'_append_eq_right
  simp only [decodeCtrlWrite, h1, h2]

/-- WDATA of a CTRL write is WDATA[31:4] and CMD. -/
theorem ctrl_wdata_append (w : Word) : (w.extractLsb' 4 28 ++ w.extractLsb' 0 4 : BitVec 32) = w := by
  refine BitVec.eq_of_getLsbD_eq fun i hi => ?_
  simp only [BitVec.getLsbD_append, BitVec.getLsbD_extractLsb']
  by_cases h : i < 4
  · simp [h]
  · simp [h, show i - 4 < 28 by omega, show 4 + (i - 4) = i by omega]

/-- The mask of a row acts on the fields one by one. -/
theorem t40_and (rw sz rw' sz' : BitVec 1) (o o' : BitVec 6) (w w' : Word) :
    t40 rw sz o w &&& t40 rw' sz' o' w' = t40 (rw &&& rw') (sz &&& sz') (o &&& o') (w &&& w') := by
  refine BitVec.eq_of_getLsbD_eq fun i hi => ?_
  simp only [BitVec.getLsbD_and, t40_getLsbD]
  split_ifs <;> rfl

end Sys2Proof
end

