-- ==== Sys2Proof/Laws/State.lean ====
section
/-! SUPPORT. One lemma per field per update of the state. -/

namespace Sys2Proof.Machine

/-! ## Replies -/

@[simp] theorem reply_core (s : State) (r : Reply) : (s.reply r).core = s.core := rfl
@[simp] theorem reply_pending (s : State) (r : Reply) : (s.reply r).pending = s.pending := rfl
@[simp] theorem reply_turns (s : State) (r : Reply) : (s.reply r).turns = s.turns := rfl
@[simp] theorem reply_replies (s : State) (r : Reply) : (s.reply r).replies = r :: s.replies := rfl

/-! ## Reset -/

@[simp] theorem resetCore_core (s : State) (wv : EightWords) (t : BitVec 6) (buf : Block) :
    (resetCore s wv t buf).core = CoreState.afterReset wv t buf := rfl
@[simp] theorem resetCore_pending (s : State) (wv : EightWords) (t : BitVec 6) (buf : Block) :
    (resetCore s wv t buf).pending = s.pending := rfl
@[simp] theorem resetCore_turns (s : State) (wv : EightWords) (t : BitVec 6) (buf : Block) :
    (resetCore s wv t buf).turns = s.turns := rfl
@[simp] theorem resetCore_replies (s : State) (wv : EightWords) (t : BitVec 6) (buf : Block) :
    (resetCore s wv t buf).replies = s.replies := rfl

@[simp] theorem loseOutstanding_core (s : State) : (loseOutstanding s).core = s.core := by
  unfold loseOutstanding; split <;> rfl
@[simp] theorem loseOutstanding_turns (s : State) : (loseOutstanding s).turns = s.turns := by
  unfold loseOutstanding; split <;> rfl

/-! ## StartBlock (42_compressor.md R150) -/

@[simp] theorem startBlock_h (c : CoreState) : (startBlock c).h = c.h := rfl
@[simp] theorem startBlock_wv (c : CoreState) : (startBlock c).wv = c.h := rfl
@[simp] theorem startBlock_mode (c : CoreState) : (startBlock c).mode = c.mode := rfl
@[simp] theorem startBlock_phase (c : CoreState) : (startBlock c).phase = .round := rfl
@[simp] theorem startBlock_t (c : CoreState) : (startBlock c).t = 0 := rfl
@[simp] theorem startBlock_fin (c : CoreState) : (startBlock c).fin = c.fin := rfl
@[simp] theorem startBlock_pend2 (c : CoreState) : (startBlock c).pend2 = c.pend2 := rfl
@[simp] theorem startBlock_bitlen (c : CoreState) : (startBlock c).bitlen = c.bitlen := rfl
@[simp] theorem startBlock_buf (c : CoreState) : (startBlock c).buf = c.buf := rfl
@[simp] theorem startBlock_bufCnt (c : CoreState) : (startBlock c).bufCnt = c.bufCnt := rfl
@[simp] theorem startBlock_errLen (c : CoreState) : (startBlock c).errLen = c.errLen := rfl
@[simp] theorem startBlock_errCmd (c : CoreState) : (startBlock c).errCmd = c.errCmd := rfl
@[simp] theorem startBlock_ecause (c : CoreState) : (startBlock c).ecause = c.ecause := rfl

/-! ## AbsorbByte (41_padder.md R104) -/

section
variable (b : Byte) (c : CoreState)

@[simp] theorem absorbByte_h : (absorbByte b c).h = c.h := by unfold absorbByte; dsimp only; split <;> rfl
@[simp] theorem absorbByte_mode : (absorbByte b c).mode = .absorbing := by
  unfold absorbByte; dsimp only; split <;> rfl
@[simp] theorem absorbByte_fin : (absorbByte b c).fin = c.fin := by unfold absorbByte; dsimp only; split <;> rfl
@[simp] theorem absorbByte_pend2 : (absorbByte b c).pend2 = c.pend2 := by unfold absorbByte; dsimp only; split <;> rfl
@[simp] theorem absorbByte_bitlen : (absorbByte b c).bitlen = c.bitlen + 8 := by
  unfold absorbByte; dsimp only; split <;> rfl
@[simp] theorem absorbByte_buf : (absorbByte b c).buf = putByte c.buf c.bufCnt.toNat b := by
  unfold absorbByte; dsimp only; split <;> rfl
@[simp] theorem absorbByte_bufCnt : (absorbByte b c).bufCnt = c.bufCnt + 1 := by
  unfold absorbByte; dsimp only; split <;> rfl
@[simp] theorem absorbByte_errLen : (absorbByte b c).errLen = c.errLen := by
  unfold absorbByte; dsimp only; split <;> rfl
@[simp] theorem absorbByte_errCmd : (absorbByte b c).errCmd = c.errCmd := by
  unfold absorbByte; dsimp only; split <;> rfl
@[simp] theorem absorbByte_ecause : (absorbByte b c).ecause = c.ecause := by
  unfold absorbByte; dsimp only; split <;> rfl
theorem absorbByte_phase : (absorbByte b c).phase = if c.bufCnt + 1 = 64 then .round else c.phase := by
  unfold absorbByte; dsimp only; split <;> rfl
theorem absorbByte_wv : (absorbByte b c).wv = if c.bufCnt + 1 = 64 then c.h else c.wv := by
  unfold absorbByte; dsimp only; split <;> rfl
theorem absorbByte_t : (absorbByte b c).t = if c.bufCnt + 1 = 64 then 0 else c.t := by
  unfold absorbByte; dsimp only; split <;> rfl

end

/-! ## reject (60_exceptions.md R233) -/

section
variable (k : ErrorKind) (e : Cause) (c : CoreState)

@[simp] theorem reject_h : (reject k e c).h = c.h := by unfold reject; dsimp only; (repeat' split) <;> rfl
@[simp] theorem reject_wv : (reject k e c).wv = c.wv := by unfold reject; dsimp only; (repeat' split) <;> rfl
@[simp] theorem reject_phase : (reject k e c).phase = c.phase := by unfold reject; dsimp only; (repeat' split) <;> rfl
@[simp] theorem reject_t : (reject k e c).t = c.t := by unfold reject; dsimp only; (repeat' split) <;> rfl
@[simp] theorem reject_fin : (reject k e c).fin = c.fin := by unfold reject; dsimp only; (repeat' split) <;> rfl
@[simp] theorem reject_pend2 : (reject k e c).pend2 = c.pend2 := by unfold reject; dsimp only; (repeat' split) <;> rfl
@[simp] theorem reject_bitlen : (reject k e c).bitlen = c.bitlen := by
  unfold reject; dsimp only; (repeat' split) <;> rfl
@[simp] theorem reject_buf : (reject k e c).buf = c.buf := by unfold reject; dsimp only; (repeat' split) <;> rfl
@[simp] theorem reject_bufCnt : (reject k e c).bufCnt = c.bufCnt := by
  unfold reject; dsimp only; (repeat' split) <;> rfl
theorem reject_errLen : (reject k e c).errLen = (c.errLen || decide (k = .len)) := by
  unfold reject; cases k <;> simp <;> (repeat' split) <;> simp_all
theorem reject_errCmd : (reject k e c).errCmd = (c.errCmd || decide (k = .cmd)) := by
  unfold reject; cases k <;> simp <;> (repeat' split) <;> simp_all
theorem reject_ecause : (reject k e c).ecause = if c.ecause = 0 then e.code else c.ecause := by
  unfold reject; cases k <;> dsimp only <;> (repeat' split) <;> simp_all
theorem reject_mode : (reject k e c).mode = if c.mode = .empty ∨ c.mode = .absorbing then .failed else c.mode := by
  unfold reject; cases k <;> dsimp only <;> (repeat' split) <;> simp_all

end

/-! ## RoundStep (42_compressor.md R151) -/

section
variable (c : CoreState)

@[simp] theorem roundStep_h : (roundStep c).h = c.h := by unfold roundStep; dsimp only; split <;> rfl
@[simp] theorem roundStep_wv : (roundStep c).wv = shaRound c.wv (K c.t.toNat) (schedWord c.buf c.t.toNat) := by
  unfold roundStep; dsimp only; split <;> rfl
@[simp] theorem roundStep_mode : (roundStep c).mode = c.mode := by unfold roundStep; dsimp only; split <;> rfl
@[simp] theorem roundStep_fin : (roundStep c).fin = c.fin := by unfold roundStep; dsimp only; split <;> rfl
@[simp] theorem roundStep_pend2 : (roundStep c).pend2 = c.pend2 := by unfold roundStep; dsimp only; split <;> rfl
@[simp] theorem roundStep_bitlen : (roundStep c).bitlen = c.bitlen := by unfold roundStep; dsimp only; split <;> rfl
@[simp] theorem roundStep_buf : (roundStep c).buf = c.buf := by unfold roundStep; dsimp only; split <;> rfl
@[simp] theorem roundStep_bufCnt : (roundStep c).bufCnt = c.bufCnt := by unfold roundStep; dsimp only; split <;> rfl
@[simp] theorem roundStep_errLen : (roundStep c).errLen = c.errLen := by unfold roundStep; dsimp only; split <;> rfl
@[simp] theorem roundStep_errCmd : (roundStep c).errCmd = c.errCmd := by unfold roundStep; dsimp only; split <;> rfl
@[simp] theorem roundStep_ecause : (roundStep c).ecause = c.ecause := by unfold roundStep; dsimp only; split <;> rfl
theorem roundStep_phase : (roundStep c).phase = if c.t = 63 then .update else c.phase := by
  unfold roundStep; dsimp only; split <;> rfl
theorem roundStep_t : (roundStep c).t = if c.t = 63 then c.t else c.t + 1 := by
  unfold roundStep; dsimp only; split <;> rfl

end

/-! ## INIT (43_sequencer.md R175) -/

section
variable (c : CoreState)

@[simp] theorem initCore_h : (initCore c).h = IV := rfl
@[simp] theorem initCore_wv : (initCore c).wv = c.wv := rfl
@[simp] theorem initCore_mode : (initCore c).mode = .empty := rfl
@[simp] theorem initCore_phase : (initCore c).phase = c.phase := rfl
@[simp] theorem initCore_t : (initCore c).t = c.t := rfl
@[simp] theorem initCore_fin : (initCore c).fin = false := rfl
@[simp] theorem initCore_pend2 : (initCore c).pend2 = false := rfl
@[simp] theorem initCore_bitlen : (initCore c).bitlen = 0 := rfl
@[simp] theorem initCore_buf : (initCore c).buf = c.buf := rfl
@[simp] theorem initCore_bufCnt : (initCore c).bufCnt = 0 := rfl
@[simp] theorem initCore_errLen : (initCore c).errLen = false := rfl
@[simp] theorem initCore_errCmd : (initCore c).errCmd = false := rfl
@[simp] theorem initCore_ecause : (initCore c).ecause = 0 := rfl

end

/-! ## FINALIZE (41_padder.md R110) and PadBlock2 (R111) -/

section
variable (c : CoreState)

@[simp] theorem finalizeTail_h : (finalizeTail c).h = c.h := by unfold finalizeTail; dsimp only; split <;> rfl
@[simp] theorem finalizeTail_wv : (finalizeTail c).wv = c.h := by unfold finalizeTail; dsimp only; split <;> rfl
@[simp] theorem finalizeTail_mode : (finalizeTail c).mode = c.mode := by unfold finalizeTail; dsimp only; split <;> rfl
@[simp] theorem finalizeTail_phase : (finalizeTail c).phase = .round := by
  unfold finalizeTail; dsimp only; split <;> rfl
@[simp] theorem finalizeTail_t : (finalizeTail c).t = 0 := by unfold finalizeTail; dsimp only; split <;> rfl
@[simp] theorem finalizeTail_fin : (finalizeTail c).fin = true := by unfold finalizeTail; dsimp only; split <;> rfl
@[simp] theorem finalizeTail_pend2 : (finalizeTail c).pend2 = decide (c.bufCnt.toNat ≥ 56) := by
  unfold finalizeTail; dsimp only; split <;> simp <;> omega
@[simp] theorem finalizeTail_bitlen : (finalizeTail c).bitlen = c.bitlen := by
  unfold finalizeTail; dsimp only; split <;> rfl
@[simp] theorem finalizeTail_bufCnt : (finalizeTail c).bufCnt = 64 := by
  unfold finalizeTail; dsimp only; split <;> rfl
@[simp] theorem finalizeTail_errLen : (finalizeTail c).errLen = c.errLen := by
  unfold finalizeTail; dsimp only; split <;> rfl
@[simp] theorem finalizeTail_errCmd : (finalizeTail c).errCmd = c.errCmd := by
  unfold finalizeTail; dsimp only; split <;> rfl
@[simp] theorem finalizeTail_ecause : (finalizeTail c).ecause = c.ecause := by
  unfold finalizeTail; dsimp only; split <;> rfl

@[simp] theorem padBlock2_h : (padBlock2 c).h = c.h := rfl
@[simp] theorem padBlock2_wv : (padBlock2 c).wv = c.h := rfl
@[simp] theorem padBlock2_mode : (padBlock2 c).mode = c.mode := rfl
@[simp] theorem padBlock2_phase : (padBlock2 c).phase = .round := rfl
@[simp] theorem padBlock2_t : (padBlock2 c).t = 0 := rfl
@[simp] theorem padBlock2_fin : (padBlock2 c).fin = c.fin := rfl
@[simp] theorem padBlock2_pend2 : (padBlock2 c).pend2 = false := rfl
@[simp] theorem padBlock2_bitlen : (padBlock2 c).bitlen = c.bitlen := rfl
@[simp] theorem padBlock2_bufCnt : (padBlock2 c).bufCnt = 64 := rfl
@[simp] theorem padBlock2_errLen : (padBlock2 c).errLen = c.errLen := rfl
@[simp] theorem padBlock2_errCmd : (padBlock2 c).errCmd = c.errCmd := rfl
@[simp] theorem padBlock2_ecause : (padBlock2 c).ecause = c.ecause := rfl

end

end Sys2Proof.Machine
end

