-- ==== Sys2Proof/Laws/Ops.lean ====
section
/-! SUPPORT. What each shared operation can do, said once: blocks byte by byte, the hold, the inversion of `exec` and of
`step`. -/

namespace Sys2Proof.Machine

/-! ## Blocks byte by byte -/

theorem blockByte_eq_getElem (b : Block) (i : Nat) (hi : i < 64) : blockByte b i = b[i] := by
  simp [blockByte, Vector.getD, hi]

theorem blockByte_of_le (b : Block) (i : Nat) (hi : 64 ≤ i) : blockByte b i = 0 := by
  simp [blockByte, Vector.getD, Nat.not_lt.mpr hi]

theorem block_ext {a b : Block} (h : ∀ i < 64, blockByte a i = blockByte b i) : a = b := by
  refine Vector.ext fun i hi => ?_
  simpa [blockByte_eq_getElem, hi] using h i hi

theorem blockByte_blockOf (f : Nat → Byte) (i : Nat) (hi : i < 64) : blockByte (blockOf f) i = f i := by
  rw [blockByte_eq_getElem _ _ hi]; simp [blockOf]

theorem blockByte_putByte (b : Block) (n : Nat) (v : Byte) (i : Nat) (hi : i < 64) :
    blockByte (putByte b n v) i = if i = n then v else blockByte b i := by
  rw [blockByte_eq_getElem _ _ hi, blockByte_eq_getElem _ _ hi, putByte, Vector.getElem_setIfInBounds hi]
  by_cases h : n = i <;> simp [h, eq_comm]

theorem blockByte_fillFrom (b : Block) (n : Nat) (v : Byte) (i : Nat) (hi : i < 64) :
    blockByte (fillFrom b n v) i = if n ≤ i then v else blockByte b i := blockByte_blockOf _ _ hi

theorem blockByte_putLength (b : Block) (len : BitVec 64) (i : Nat) (hi : i < 64) :
    blockByte (putLength b len) i = if 56 ≤ i then be64 len (i - 56) else blockByte b i := blockByte_blockOf _ _ hi

/-- BUF after FINALIZE's tail, byte by byte (41_padder.md R110). -/
theorem blockByte_finalizeTail (c : CoreState) (i : Nat) (hi : i < 64) :
    blockByte (finalizeTail c).buf i =
      if 56 ≤ i ∧ c.bufCnt.toNat ≤ 55 then be64 c.bitlen (i - 56)
      else if c.bufCnt.toNat < i then 0
      else if i = c.bufCnt.toNat then 0x80 else blockByte c.buf i := by
  unfold finalizeTail
  dsimp only
  split
  · rename_i hn
    simp only [startBlock_buf, blockByte_putLength _ _ _ hi, blockByte_fillFrom _ _ _ _ hi, blockByte_putByte _ _ _ _ hi]
    simp [hn, Nat.succ_le_iff]
  · rename_i hn
    simp only [startBlock_buf, blockByte_fillFrom _ _ _ _ hi, blockByte_putByte _ _ _ _ hi]
    simp [hn, Nat.succ_le_iff]

/-- BUF after PadBlock2, byte by byte (41_padder.md R111). -/
theorem blockByte_padBlock2 (c : CoreState) (i : Nat) (hi : i < 64) :
    blockByte (padBlock2 c).buf i = if 56 ≤ i then be64 c.bitlen (i - 56) else 0 := by
  simp [padBlock2, blockByte_putLength _ _ _ hi, blockByte_fillFrom _ _ _ _ hi]

/-! ## BUSY and the hold -/

theorem busy_eq_false_iff (c : CoreState) : c.busy = false ↔ c.phase = .idle := by
  unfold CoreState.busy; cases c.phase <;> decide

theorem busy_eq_true_iff (c : CoreState) : c.busy = true ↔ c.phase = .round ∨ c.phase = .update := by
  unfold CoreState.busy; cases c.phase <;> decide

@[simp] theorem reject_busy (k : ErrorKind) (e : Cause) (c : CoreState) : (reject k e c).busy = c.busy := by
  simp [CoreState.busy]
@[simp] theorem initCore_busy (c : CoreState) : (initCore c).busy = c.busy := rfl
@[simp] theorem startBlock_busy (c : CoreState) : (startBlock c).busy = true := rfl
@[simp] theorem finalizeTail_busy (c : CoreState) : (finalizeTail c).busy = true := by simp [CoreState.busy]
@[simp] theorem padBlock2_busy (c : CoreState) : (padBlock2 c).busy = true := rfl
@[simp] theorem afterReset_busy (wv : EightWords) (t : BitVec 6) (buf : Block) :
    (CoreState.afterReset wv t buf).busy = false := rfl

theorem holdWhileBusy_busy {s : State} (h : s.core.busy = true) (r : Result) : holdWhileBusy s r = .next s := by
  simp [holdWhileBusy, h]

theorem holdWhileBusy_idle {s : State} (h : s.core.busy = false) (r : Result) : holdWhileBusy s r = r := by
  simp [holdWhileBusy, h]

theorem held_eq_true_iff (i : Instr) (c : CoreState) : held i c = true ↔ c.busy = true ∧ neverHeld i = false := by
  simp [held]

theorem not_held_of_idle (i : Instr) {c : CoreState} (h : c.busy = false) : held i c = false := by simp [held, h]

theorem lengthWouldOverflow_iff (c : CoreState) (n : Nat) :
    lengthWouldOverflow c n = true ↔ c.bitlen.toNat > 2 ^ 64 - 1 - n := by simp [lengthWouldOverflow]

theorem dataWordMisaligned_iff (c : CoreState) : dataWordMisaligned c = true ↔ c.bufCnt.toNat % 4 ≠ 0 := by
  simp [dataWordMisaligned]

theorem bufferHasRoom_iff (c : CoreState) : bufferHasRoom c = true ↔ c.bufCnt.toNat ≤ 63 := by simp [bufferHasRoom]

/-! ## AbsorbByte, once and four times -/

/-- AbsorbByte, all fields at once (41_padder.md R104). -/
theorem absorbByte_eq (b : Byte) (c : CoreState) : absorbByte b c = { c with
    buf := putByte c.buf c.bufCnt.toNat b
    bufCnt := c.bufCnt + 1
    bitlen := c.bitlen + 8
    mode := .absorbing
    wv := if c.bufCnt + 1 = 64 then c.h else c.wv
    t := if c.bufCnt + 1 = 64 then 0 else c.t
    phase := if c.bufCnt + 1 = 64 then .round else c.phase } := by
  simp only [absorbByte, startBlock]; split_ifs <;> rfl

/-- The four AbsorbByte actions of a DATA_WORD at an aligned count, all fields at once: only the fourth can start the
engine (41_padder.md R106). -/
theorem absorbWord_eq (w : Word) (c : CoreState) (hn : c.bufCnt.toNat ≤ 63) (ha : c.bufCnt.toNat % 4 = 0) :
    absorbWord w c = { c with
      buf := putByte (putByte (putByte (putByte c.buf c.bufCnt.toNat (dataWordB0 w)) (c.bufCnt.toNat + 1) (dataWordB1 w))
        (c.bufCnt.toNat + 2) (dataWordB2 w)) (c.bufCnt.toNat + 3) (dataWordB3 w)
      bufCnt := c.bufCnt + 4
      bitlen := c.bitlen + 32
      mode := .absorbing
      wv := if c.bufCnt + 4 = 64 then c.h else c.wv
      t := if c.bufCnt + 4 = 64 then 0 else c.t
      phase := if c.bufCnt + 4 = 64 then .round else c.phase } := by
  obtain ⟨h, wv, mode, phase, t, fin, pend2, bitlen, buf, n, el, ec, ecs⟩ := c
  simp only at hn ha ⊢
  have k1 : ¬n + 1 = 64 := by intro h; have := congrArg BitVec.toNat h; simp at this; omega
  have k2 : ¬n + 1 + 1 = 64 := by intro h; have := congrArg BitVec.toNat h; simp at this; omega
  have k3 : ¬n + 1 + 1 + 1 = 64 := by intro h; have := congrArg BitVec.toNat h; simp at this; omega
  have k4 : n + 1 + 1 + 1 + 1 = n + 4 := by apply BitVec.eq_of_toNat_eq; simp
  have k5 : bitlen + 8 + 8 + 8 + 8 = bitlen + 32 := by apply BitVec.eq_of_toNat_eq; simp
  have t1 : (n + 1).toNat = n.toNat + 1 := by simp; omega
  have t2 : (n + 1 + 1).toNat = n.toNat + 2 := by simp; omega
  have t3 : (n + 1 + 1 + 1).toNat = n.toNat + 3 := by simp; omega
  simp only [absorbWord, absorbByte_eq, k1, k2, k3, k4, k5, t1, t2, t3, if_false]

/-! ## The inversion of `exec` -/

/-- What a transaction that is performed does to the core. -/
inductive CoreEffect (i : Instr) (c : CoreState) : CoreState → Prop where
  /-- A read, an ignored write, NOP or a bus error. -/
  | same : CoreEffect i c c
  /-- The transaction is rejected (60_exceptions.md R233, R234). -/
  | rejected (k : ErrorKind) (e : Cause) (idle : c.busy = false) (why : decidingError i c = some (k, e)) :
      CoreEffect i c (reject k e c)
  /-- INIT (43_sequencer.md R175). -/
  | init (ign : BitVec 28) (what : i = .wrCtrlInit ign) (idle : c.busy = false) : CoreEffect i c (initCore c)
  /-- WR DATA_BYTE is accepted (41_padder.md R105). -/
  | byte (w : Word) (what : i = .wrDataByte w) (idle : c.busy = false) (mode : c.mode = .empty ∨ c.mode = .absorbing)
      (fits : c.bitlen.toNat ≤ 2 ^ 64 - 1 - 8) (room : c.bufCnt.toNat ≤ 63) :
      CoreEffect i c (absorbByte (dataByteOperand w) c)
  /-- WR DATA_WORD is accepted (41_padder.md R106). -/
  | word (w : Word) (what : i = .wrDataWord w) (idle : c.busy = false) (mode : c.mode = .empty ∨ c.mode = .absorbing)
      (aligned : c.bufCnt.toNat % 4 = 0) (fits : c.bitlen.toNat ≤ 2 ^ 64 - 1 - 32) (room : c.bufCnt.toNat ≤ 63) :
      CoreEffect i c (absorbWord w c)
  /-- FINALIZE is accepted (41_padder.md R110). -/
  | finalize (ign : BitVec 28) (what : i = .wrCtrlFinalize ign) (idle : c.busy = false)
      (mode : c.mode = .empty ∨ c.mode = .absorbing) (room : c.bufCnt.toNat ≤ 63) : CoreEffect i c (finalizeTail c)

theorem mode_of_not {c : CoreState} (h1 : ¬c.mode = .failed) (h2 : ¬c.mode = .finalized) :
    c.mode = .empty ∨ c.mode = .absorbing := by
  cases h : c.mode <;> simp_all

theorem writeDone_eq_next {s t : State} {c : CoreState} (h : writeDone s c = .next t) :
    t = ({ s with core := c }).reply .done := by
  unfold writeDone at h
  exact (Host.Outcome.next.inj h).symm

theorem execWrDataByte_cases {w : Word} {s t : State} (h : exec (.wrDataByte w) s = .next t) :
    (s.core.busy = true ∧ t = s) ∨
    ∃ c, CoreEffect (.wrDataByte w) s.core c ∧ t = ({ s with core := c }).reply .done := by
  simp only [exec, execWrDataByte] at h
  cases hb : s.core.busy
  · right
    rw [holdWhileBusy_idle hb] at h
    split at h
    · exact ⟨_, .rejected _ _ hb (by simp [decidingError, errorConditions, *]), writeDone_eq_next h⟩
    split at h
    · exact ⟨_, .rejected _ _ hb (by simp [decidingError, errorConditions, *]), writeDone_eq_next h⟩
    split at h
    · exact ⟨_, .rejected _ _ hb (by simp [decidingError, errorConditions, *]), writeDone_eq_next h⟩
    split at h
    · rename_i h1 h2 h3 h4
      rw [lengthWouldOverflow_iff] at h3
      exact ⟨_, .byte w rfl hb (mode_of_not h1 h2) (by omega) ((bufferHasRoom_iff _).mp h4), writeDone_eq_next h⟩
    · cases h
  · rw [holdWhileBusy_busy hb] at h; cases h; exact .inl ⟨rfl, rfl⟩

theorem execWrDataWord_cases {w : Word} {s t : State} (h : exec (.wrDataWord w) s = .next t) :
    (s.core.busy = true ∧ t = s) ∨
    ∃ c, CoreEffect (.wrDataWord w) s.core c ∧ t = ({ s with core := c }).reply .done := by
  simp only [exec, execWrDataWord] at h
  cases hb : s.core.busy
  · right
    rw [holdWhileBusy_idle hb] at h
    split at h
    · exact ⟨_, .rejected _ _ hb (by simp [decidingError, errorConditions, *]), writeDone_eq_next h⟩
    split at h
    · exact ⟨_, .rejected _ _ hb (by simp [decidingError, errorConditions, *]), writeDone_eq_next h⟩
    split at h
    · exact ⟨_, .rejected _ _ hb (by simp [decidingError, errorConditions, *]), writeDone_eq_next h⟩
    split at h
    · exact ⟨_, .rejected _ _ hb (by simp [decidingError, errorConditions, *]), writeDone_eq_next h⟩
    split at h
    · rename_i h1 h2 h3 h4 h5
      rw [dataWordMisaligned_iff] at h3
      rw [lengthWouldOverflow_iff] at h4
      exact ⟨_, .word w rfl hb (mode_of_not h1 h2) (by omega) (by omega) ((bufferHasRoom_iff _).mp h5), writeDone_eq_next h⟩
    · cases h
  · rw [holdWhileBusy_busy hb] at h; cases h; exact .inl ⟨rfl, rfl⟩

theorem execWrCtrlFinalize_cases {ign : BitVec 28} {s t : State} (h : exec (.wrCtrlFinalize ign) s = .next t) :
    (s.core.busy = true ∧ t = s) ∨
    ∃ c, CoreEffect (.wrCtrlFinalize ign) s.core c ∧ t = ({ s with core := c }).reply .done := by
  simp only [exec, execWrCtrlFinalize] at h
  cases hb : s.core.busy
  · right
    rw [holdWhileBusy_idle hb] at h
    split at h
    · exact ⟨_, .rejected _ _ hb (by simp [decidingError, errorConditions, *]), writeDone_eq_next h⟩
    split at h
    · exact ⟨_, .rejected _ _ hb (by simp [decidingError, errorConditions, *]), writeDone_eq_next h⟩
    split at h
    · rename_i h1 h2 h3
      exact ⟨_, .finalize ign rfl hb (mode_of_not h1 h2) ((bufferHasRoom_iff _).mp h3), writeDone_eq_next h⟩
    · cases h
  · rw [holdWhileBusy_busy hb] at h; cases h; exact .inl ⟨rfl, rfl⟩

theorem reservedCommand_cases {i : Instr} {s t : State} (hi : errorConditions i s.core = [(true, .cmd, .reservedCmd)])
    (h : reservedCommand s = .next t) :
    (s.core.busy = true ∧ t = s) ∨ ∃ c, CoreEffect i s.core c ∧ t = ({ s with core := c }).reply .done := by
  unfold reservedCommand at h
  cases hb : s.core.busy
  · rw [holdWhileBusy_idle hb] at h; cases h
    exact .inr ⟨_, .rejected _ _ hb (by simp [decidingError, hi]), rfl⟩
  · rw [holdWhileBusy_busy hb] at h; cases h; exact .inl ⟨rfl, rfl⟩

theorem hold_cases {i : Instr} {s t u : State} (hu : u = s.reply .done ∨ ∃ v, u = s.reply (.data v))
    (h : holdWhileBusy s (.next u) = .next t) :
    (s.core.busy = true ∧ t = s) ∨ ∃ c r, CoreEffect i s.core c ∧ t = ({ s with core := c }).reply r := by
  cases hb : s.core.busy
  · rw [holdWhileBusy_idle hb] at h; cases h
    obtain rfl | ⟨v, rfl⟩ := hu
    · exact .inr ⟨s.core, .done, .same, rfl⟩
    · exact .inr ⟨s.core, .data v, .same, rfl⟩
  · rw [holdWhileBusy_busy hb] at h; cases h; exact .inl ⟨rfl, rfl⟩

/-- All that a transaction which gives a next state can do: it is held and changes nothing, or it gives one reply and has
one of the effects on the core. -/
theorem exec_cases {i : Instr} {s t : State} (h : exec i s = .next t) :
    (held i s.core = true ∧ t = s) ∨ ∃ c r, CoreEffect i s.core c ∧ t = ({ s with core := c }).reply r := by
  have lift : ∀ {j : Instr}, neverHeld j = false →
      ((s.core.busy = true ∧ t = s) ∨ ∃ c r, CoreEffect j s.core c ∧ t = ({ s with core := c }).reply r) →
      (held j s.core = true ∧ t = s) ∨ ∃ c r, CoreEffect j s.core c ∧ t = ({ s with core := c }).reply r := by
    rintro j hn (⟨hb, rfl⟩ | h)
    · exact .inl ⟨(held_eq_true_iff _ _).mpr ⟨hb, hn⟩, rfl⟩
    · exact .inr h
  have write : ∀ {j : Instr},
      ((s.core.busy = true ∧ t = s) ∨ ∃ c, CoreEffect j s.core c ∧ t = ({ s with core := c }).reply .done) →
      ((s.core.busy = true ∧ t = s) ∨ ∃ c r, CoreEffect j s.core c ∧ t = ({ s with core := c }).reply r) := by
    rintro j (h | ⟨c, h1, h2⟩)
    · exact .inl h
    · exact .inr ⟨c, .done, h1, h2⟩
  cases i with
  | wrCtrlNop ign => exact lift rfl (hold_cases (.inl rfl) h)
  | wrCtrlInit ign =>
    refine lift rfl ?_
    simp only [exec, execWrCtrlInit] at h
    cases hb : s.core.busy
    · rw [holdWhileBusy_idle hb] at h; cases h
      exact .inr ⟨_, .done, .init ign rfl hb, rfl⟩
    · rw [holdWhileBusy_busy hb] at h; cases h; exact .inl ⟨rfl, rfl⟩
  | wrCtrlFinalize ign => exact lift rfl (write (execWrCtrlFinalize_cases h))
  | wrCtrlRsv3 ign => exact lift rfl (write (reservedCommand_cases rfl h))
  | wrCtrlRsv4_7 ign lo => exact lift rfl (write (reservedCommand_cases rfl h))
  | wrCtrlRsv8_F ign lo => exact lift rfl (write (reservedCommand_cases rfl h))
  | wrDataWord w => exact lift rfl (write (execWrDataWord_cases h))
  | wrDataByte w => exact lift rfl (write (execWrDataByte_cases h))
  | wrStatus w => exact lift rfl (hold_cases (.inl rfl) h)
  | wrBitlen lo w => exact lift rfl (hold_cases (.inl rfl) h)
  | wrRsv lo w => exact lift rfl (hold_cases (.inl rfl) h)
  | wrDigest n w => exact lift rfl (hold_cases (.inl rfl) h)
  | rdCtrl w => exact lift rfl (hold_cases (.inr ⟨_, rfl⟩) h)
  | rdStatus w => cases h; exact .inr ⟨s.core, _, .same, rfl⟩
  | rdDataWord w => exact lift rfl (hold_cases (.inr ⟨_, rfl⟩) h)
  | rdDataByte w => exact lift rfl (hold_cases (.inr ⟨_, rfl⟩) h)
  | rdBitlenHi w => exact lift rfl (hold_cases (.inr ⟨_, rfl⟩) h)
  | rdBitlenLo w => exact lift rfl (hold_cases (.inr ⟨_, rfl⟩) h)
  | rdRsv lo w => exact lift rfl (hold_cases (.inr ⟨_, rfl⟩) h)
  | rdDigest n w => exact lift rfl (hold_cases (.inr ⟨_, rfl⟩) h)
  | busErrSize rw o w => cases h; exact .inr ⟨s.core, _, .same, rfl⟩
  | busErrAlignOdd rw o w => cases h; exact .inr ⟨s.core, _, .same, rfl⟩
  | busErrAlign2 rw o w => cases h; exact .inr ⟨s.core, _, .same, rfl⟩

/-! ## The inversion of `step` -/

/-- The engine's step in each phase, as one of three equations. -/
theorem engineStep_round {c : CoreState} (h : c.phase = .round) : engineStep c = roundStep c := by
  simp [engineStep, h]

theorem engineStep_update {c : CoreState} (h : c.phase = .update) : engineStep c = updateStep c := by
  simp [engineStep, h]

theorem engineStep_idle {c : CoreState} (h : c.phase = .idle) : engineStep c = c := by
  simp [engineStep, h]

/-- All that a step which gives a next state can be: a reset event, the engine's step, the host's, or, with no agent
enabled, the use of a turn. -/
theorem step_cases {s t : State} (h : step s = .next t) :
    (∃ p wv r b ts, s.turns = .reset p wv r b :: ts ∧
      t = resetCore (if p || headHeld s then loseOutstanding { s with turns := ts } else { s with turns := ts }) wv r b) ∨
    (s.core.busy = true ∧ t = { s with core := engineStep s.core, turns := s.turns.tail }) ∨
    (∃ w rest, s.pending = w :: rest ∧ held (decode w) s.core = false ∧
      exec (decode w) { s with pending := rest, turns := s.turns.tail } = .next t) ∨
    (s.core.busy = false ∧ s.pending = [] ∧ t = { s with turns := s.turns.tail }) := by
  have engine : ∀ ts, engineFirst { s with turns := ts } = .next t →
      (s.core.busy = true ∧ t = { s with core := engineStep s.core, turns := ts }) ∨
      (∃ w rest, s.pending = w :: rest ∧ held (decode w) s.core = false ∧
        exec (decode w) { s with pending := rest, turns := ts } = .next t) ∨
      (s.core.busy = false ∧ s.pending = [] ∧ t = { s with turns := ts }) := by
    intro ts h
    unfold engineFirst at h
    split at h
    · rename_i hb; cases h; exact .inl ⟨hb, rfl⟩
    · rename_i hb
      have hb : s.core.busy = false := by simpa using hb
      right
      cases hp : s.pending with
      | nil => simp [hostStep, hp] at h; exact .inr ⟨hb, rfl, h.symm ▸ by simp⟩
      | cons w rest =>
        simp [hostStep, hp] at h
        exact .inl ⟨w, rest, rfl, not_held_of_idle _ hb, h⟩
  unfold step takeTurn at h
  split at h
  · rename_i ht
    right
    have := engine [] (by rw [← ht]; exact h)
    simpa [ht] using this
  · rename_i ts ht
    right
    simpa [ht] using engine ts h
  · rename_i ts ht
    right
    unfold hostFirst at h
    split at h
    · rename_i hen
      cases hp : s.pending with
      | nil => simp [hostEnabled, hp] at hen
      | cons w rest =>
        simp [hostStep, hp] at h
        simp [hostEnabled, headHeld, hp] at hen
        right; left
        exact ⟨w, rest, rfl, hen, by simpa [ht] using h⟩
    · simpa [ht] using engine ts h
  · rename_i p wv r b ts ht
    cases h
    exact .inl ⟨p, wv, r, b, ts, ht, rfl⟩

/-! ## The byte lanes -/

/-- Whatever P_LANES is, a register value put on the lanes is read back whole (20_memory.md R57). -/
theorem valueOfLanes_laneByte (v : Word) : valueOfLanes (laneByte v) = v := by
  simp only [valueOfLanes, laneByte, Equiv.apply_symm_apply, be32]
  ext i hi
  simp only [BitVec.getElem_append, BitVec.getElem_extractLsb']
  rcases Nat.lt_or_ge i 8 with h | h
  · simp [h, BitVec.getLsbD_eq_getElem hi]
  rcases Nat.lt_or_ge i 16 with h2 | h2
  · have h3 : ¬i < 8 := by omega
    have h4 : 8 + (i - 8) = i := by omega
    simp [h3, show i - 8 < 8 by omega, h4, BitVec.getLsbD_eq_getElem hi]
  rcases Nat.lt_or_ge i 24 with h5 | h5
  · have h4 : 16 + (i - 8 - 8) = i := by omega
    simp [show ¬i < 8 by omega, show ¬i - 8 < 8 by omega, show i - 8 - 8 < 8 by omega, h4, BitVec.getLsbD_eq_getElem hi]
  · have h4 : 24 + (i - 8 - 8 - 8) = i := by omega
    simp [show ¬i < 8 by omega, show ¬i - 8 < 8 by omega, show ¬i - 8 - 8 < 8 by omega, h4, BitVec.getLsbD_eq_getElem hi]

end Sys2Proof.Machine
end

