-- ==== Sys2Proof/Laws/Host.lean ====
section
/-! SUPPORT. Host programs (30_encoding.md R80): what the assembler makes of a line, when WAITIDLE ends, and that the host
has one transaction outstanding. -/

namespace Sys2Proof.Machine

/-! ## Issuing -/

@[simp] theorem issueWord_core (s : State) (t : BitVec 40) : (s.issueWord t).core = s.core := rfl
@[simp] theorem issueWord_pending (s : State) (t : BitVec 40) : (s.issueWord t).pending = s.pending ++ [t] := rfl
@[simp] theorem issueWord_turns (s : State) (t : BitVec 40) : (s.issueWord t).turns = s.turns := rfl
@[simp] theorem issueWord_replies (s : State) (t : BitVec 40) : (s.issueWord t).replies = s.replies := rfl

/-! ## The assembler -/

@[simp] theorem assembleFrom_nil (c : Nat) : assembleFrom c [] = [] := rfl

@[simp] theorem assembleFrom_cons (c : Nat) (line : HostLine) (rest : List HostLine) :
    assembleFrom c (line :: rest) = line.expand c ++ assembleFrom (line.count c) rest := rfl

/-- Assembling goes line by line, with the count carried over. -/
theorem assembleFrom_append (c : Nat) (xs ys : List HostLine) :
    assembleFrom c (xs ++ ys) = assembleFrom c xs ++ assembleFrom (xs.foldl HostLine.count c) ys := by
  induction xs generalizing c with
  | nil => rfl
  | cons x xs ih => simp [ih]

/-- The one-shot program is what the assembler makes of its four lines (43_sequencer.md R186). -/
theorem assemble_oneShot (m : List Byte) :
    assemble [.init, .absorb m, .finalize, .rdDigest] = (oneShotProgram m).map .issue := by
  simp [assemble, HostLine.expand, HostLine.count, oneShotProgram]

/-- Two ABSORBs count as one of the joined bytes does. -/
theorem count_absorb (c : Nat) (xs ys : List Byte) :
    HostLine.count (HostLine.count c (.absorb xs)) (.absorb ys) = HostLine.count c (.absorb (xs ++ ys)) := by
  simp [HostLine.count, Nat.add_assoc]

/-! ## WAITIDLE -/

/-- s[2] of STATUS is BUSY (10_state.md R37). -/
theorem status_busy_bit (c : CoreState) : (status c)[2] = c.busy := by
  simp only [← BitVec.getLsbD_eq_getElem, status, BitVec.getLsbD_append]
  cases c.busy <;> simp

/-- WAITIDLE ends at a reply with s[2] = 0 and at no other. -/
theorem waitIdle_endedBy (r : Reply) : HostOp.waitIdle.endedBy r = true ↔ ∃ s, r = .data s ∧ s[2] = false := by
  cases r <;> simp [HostOp.endedBy]

/-- The reply to WAITIDLE's RD STATUS ends it exactly when BUSY = 0. -/
theorem waitIdle_endedBy_status (c : CoreState) : HostOp.waitIdle.endedBy (.data (status c)) = !c.busy := by
  simp [HostOp.endedBy, status_busy_bit]

/-! ## The host's run -/

/-- The host leaves its first operation only for the next one, and only when the newest reply ends it. -/
theorem settle_program (r : HostRun) :
    r.settle.program = r.program ∨
    ∃ op rest reply older, r.program = op :: rest ∧ r.machine.replies = reply :: older ∧ op.endedBy reply = true ∧
      r.settle.program = rest := by
  obtain ⟨s, program, outstanding⟩ := r
  unfold HostRun.settle
  split
  · cases program with
    | nil => left; simp
    | cons op rest =>
      cases hr : s.replies with
      | nil => left; simp [HostRun.endsFirst, hr]
      | cons reply older =>
        cases he : op.endedBy reply
        · left; simp [HostRun.endsFirst, hr, he]
        · right; exact ⟨op, rest, reply, older, rfl, rfl, he, by simp [HostRun.endsFirst, hr, he]⟩
  · exact .inl rfl

/-- Settling leaves the machine alone. -/
@[simp] theorem settle_machine (r : HostRun) : r.settle.machine = r.machine := by
  unfold HostRun.settle; split <;> rfl

/-- A poll that saw BUSY = 1 is repeated: the host keeps WAITIDLE and issues RD STATUS again. -/
theorem waitIdle_repeats {r : HostRun} {rest : List HostOp} {s : Word} {older : List Reply}
    (hp : r.program = .waitIdle :: rest) (ho : r.outstanding = true) (hn : r.machine.pending = [])
    (hr : r.machine.replies = .data s :: older) (hb : s[2] = true) :
    r.settle.submit.program = .waitIdle :: rest ∧ r.settle.submit.machine.pending = [encode (.rdStatus 0)] := by
  simp [HostRun.settle, HostRun.submit, HostRun.endsFirst, HostOp.endedBy, HostOp.transaction, hp, ho, hn, hr, hb]

/-- A poll that saw BUSY = 0 ends WAITIDLE. -/
theorem waitIdle_ends {r : HostRun} {rest : List HostOp} {s : Word} {older : List Reply}
    (hp : r.program = .waitIdle :: rest) (ho : r.outstanding = true) (hn : r.machine.pending = [])
    (hr : r.machine.replies = .data s :: older) (hb : s[2] = false) : r.settle.program = rest := by
  simp [HostRun.settle, HostRun.endsFirst, HostOp.endedBy, hp, ho, hn, hr, hb]

/-- The host issues at most one transaction, and none while one is outstanding (20_memory.md R63). -/
theorem submit_pending (r : HostRun) :
    r.submit.machine.pending = r.machine.pending ∨
    ∃ op rest, r.outstanding = false ∧ r.program = op :: rest ∧
      r.submit.machine.pending = r.machine.pending ++ [encode op.transaction] := by
  obtain ⟨s, program, outstanding⟩ := r
  cases outstanding
  · cases program with
    | nil => exact .inl rfl
    | cons op rest => exact .inr ⟨op, rest, rfl, rfl, rfl⟩
  · exact .inl rfl

end Sys2Proof.Machine
end

