-- ==== Sys2Proof/Laws/Invariant.lean ====
section
/-! SUPPORT. The shared operations keep the invariant (10_state.md R45), one lemma each. -/

namespace Sys2Proof.Machine

/-- INIT on an idle core. -/
theorem initCore_inv {c : CoreState} (hb : c.busy = false) : (initCore c).Inv := by
  constructor
  · constructor <;> simp_all [initCore, clearErrors, CoreState.busy]
  all_goals simp_all [initCore, clearErrors, CoreState.busy]

/-- Every engine step. -/
theorem engineStep_inv {c : CoreState} (hi : c.Inv) (hb : c.busy = true) : (engineStep c).Inv := by
  have h64 := hi.busy_iff_full.mp hb
  have hm := hi.busy_mode hb
  have hd := hi.data_block hb
  obtain ⟨⟨a1, a2, a3, a4, a5, a6, a7, a8⟩, b1, b2, b3, b4, b5, b6⟩ := hi
  rcases (busy_eq_true_iff c).mp hb with hp | hp
  · simp only [engineStep_round hp, roundStep]
    split
    · constructor
      · constructor <;> simp_all [CoreState.busy]
      all_goals simp_all [CoreState.busy]
    · constructor
      · constructor <;> simp_all [CoreState.busy]
      all_goals simp_all [CoreState.busy]
  · simp only [engineStep_update hp, updateStep, sequencerNext]
    split
    · constructor
      · constructor <;> simp_all [CoreState.busy, padBlock2, startBlock]
      all_goals simp_all [CoreState.busy, padBlock2, startBlock]
    · split
      · constructor
        · constructor <;> simp_all [CoreState.busy]
        all_goals simp_all [CoreState.busy]
      · constructor
        · constructor <;> simp_all [CoreState.busy]
        all_goals simp_all [CoreState.busy]

/-- AbsorbByte where its precondition holds. -/
theorem absorbByte_inv {b : Byte} {c : CoreState} (hi : c.Inv) (hb : c.busy = false)
    (hm : c.mode = .empty ∨ c.mode = .absorbing) (hf : c.bitlen.toNat ≤ 2 ^ 64 - 1 - 8) : (absorbByte b c).Inv := by
  obtain ⟨⟨a1, a2, a3, a4, a5, a6, a7, a8⟩, b1, b2, b3, b4, b5, b6⟩ := hi
  have a2 := a2 hb
  have a3 := a3 hm hb
  have e : (c.bufCnt + 1).toNat = c.bufCnt.toNat + 1 := by simp; omega
  have e2 : (c.bitlen + 8).toNat = c.bitlen.toNat + 8 := by simp; omega
  have hp := (busy_eq_false_iff c).mp hb
  rw [absorbByte_eq]
  by_cases h : c.bufCnt + 1 = 64
  · simp only [h, if_true]
    rw [h] at e; simp at e
    constructor
    · constructor <;> simp_all [CoreState.busy]
    all_goals simp_all [CoreState.busy] <;> omega
  · simp only [h, if_false]
    have : c.bufCnt.toNat ≠ 63 := by
      intro h'; apply h; apply BitVec.eq_of_toNat_eq; rw [e, h']; rfl
    constructor
    · constructor <;> simp_all [CoreState.busy] <;> omega
    all_goals simp_all [CoreState.busy]

/-- FINALIZE where it is accepted. -/
theorem finalizeTail_inv {c : CoreState} (hi : c.Inv) (hb : c.busy = false)
    (hm : c.mode = .empty ∨ c.mode = .absorbing) : (finalizeTail c).Inv := by
  obtain ⟨⟨a1, a2, a3, a4, a5, a6, a7, a8⟩, b1, b2, b3, b4, b5, b6⟩ := hi
  have a2 := a2 hb
  have a3 := a3 hm hb
  unfold finalizeTail
  dsimp only
  split
  all_goals
    constructor
    · constructor <;> simp_all [CoreState.busy, startBlock]
      try (rcases hm with hm | hm <;> simp_all)
    all_goals simp_all [CoreState.busy, startBlock]
  all_goals (intro h; simp_all)

end Sys2Proof.Machine
end

