-- ==== Sys2Proof/Laws/PerInstr.lean ====
section
/-! SUPPORT. The per-instruction family `EncodingInRow`: the word the encoder writes for a transaction lies in the row of
the opcode table that carries its mnemonic (30_encoding.md R71, R74). -/

namespace Sys2Proof.Laws.EncodingInRow

/-- Some row of the opcode table has the transaction's mnemonic and its word. -/
def Statement (i : Instr) : Prop := ∃ r ∈ opcodeTable, r.mnemonic = i.mnemonic ∧ r.matches (encode i) = true

theorem ctrl (ign : BitVec 28) (cmd mask : BitVec 4) (pattern : BitVec 40)
    (hp : t40 1 1 0 (0#28 ++ (cmd &&& mask)) = pattern) :
    (t40Write 0x00 (ign ++ cmd) &&& t40 1 1 0x3f (0#28 ++ mask) == pattern) = true := by
  have h : (ign ++ cmd &&& 0#28 ++ mask : BitVec 32) = 0#28 ++ (cmd &&& mask) := by
    rw [BitVec.and_append]; simp
  rw [beq_iff_eq, ← hp, t40Write, t40_and, h]
  rfl

theorem reg (rw : BitVec 1) (offset mask : BitVec 6) (w : Word) (pattern : BitVec 40)
    (hp : t40 rw 1 (offset &&& mask) 0 = pattern) :
    (t40 rw 1 offset w &&& t40 1 1 mask 0 == pattern) = true := by
  have h : rw &&& 1 = rw := by clear hp; revert rw; decide
  rw [beq_iff_eq, ← hp, t40_and, h]; simp

theorem wrCtrlNop (ign : BitVec 28) : Statement (.wrCtrlNop ign) :=
  ⟨⟨"WR.CTRL.NOP", 0xc000000000, 0xff0000000f⟩, by decide, rfl, ctrl ign 0 15 _ rfl⟩
theorem wrCtrlInit (ign : BitVec 28) : Statement (.wrCtrlInit ign) :=
  ⟨⟨"WR.CTRL.INIT", 0xc000000001, 0xff0000000f⟩, by decide, rfl, ctrl ign 1 15 _ rfl⟩
theorem wrCtrlFinalize (ign : BitVec 28) : Statement (.wrCtrlFinalize ign) :=
  ⟨⟨"WR.CTRL.FINALIZE", 0xc000000002, 0xff0000000f⟩, by decide, rfl, ctrl ign 2 15 _ rfl⟩
theorem wrCtrlRsv3 (ign : BitVec 28) : Statement (.wrCtrlRsv3 ign) :=
  ⟨⟨"WR.CTRL.RSV3", 0xc000000003, 0xff0000000f⟩, by decide, rfl, ctrl ign 3 15 _ rfl⟩
theorem wrCtrlRsv4_7 (ign : BitVec 28) (lo : BitVec 2) : Statement (.wrCtrlRsv4_7 ign lo) :=
  ⟨⟨"WR.CTRL.RSV4_7", 0xc000000004, 0xff0000000c⟩, by decide, rfl,
    ctrl ign (1#2 ++ lo) 12 _ (by revert lo; decide)⟩
theorem wrCtrlRsv8_F (ign : BitVec 28) (lo : BitVec 3) : Statement (.wrCtrlRsv8_F ign lo) :=
  ⟨⟨"WR.CTRL.RSV8_F", 0xc000000008, 0xff00000008⟩, by decide, rfl,
    ctrl ign (1#1 ++ lo) 8 _ (by revert lo; decide)⟩
theorem wrDataWord (w : Word) : Statement (.wrDataWord w) :=
  ⟨⟨"WR.DATA_WORD", 0xc800000000, 0xff00000000⟩, by decide, rfl, reg 1 0x08 0x3f w _ rfl⟩
theorem wrDataByte (w : Word) : Statement (.wrDataByte w) :=
  ⟨⟨"WR.DATA_BYTE", 0xcc00000000, 0xff00000000⟩, by decide, rfl, reg 1 0x0c 0x3f w _ rfl⟩
theorem wrStatus (w : Word) : Statement (.wrStatus w) :=
  ⟨⟨"WR.STATUS", 0xc400000000, 0xff00000000⟩, by decide, rfl, reg 1 0x04 0x3f w _ rfl⟩
theorem wrBitlen (lo : BitVec 1) (w : Word) : Statement (.wrBitlen lo w) :=
  ⟨⟨"WR.BITLEN", 0xd000000000, 0xfb00000000⟩, by decide, rfl,
    reg 1 (2#3 ++ lo ++ 0#2) 0x3b w _ (by revert lo; decide)⟩
theorem wrRsv (lo : BitVec 1) (w : Word) : Statement (.wrRsv lo w) :=
  ⟨⟨"WR.RSV", 0xd800000000, 0xfb00000000⟩, by decide, rfl,
    reg 1 (3#3 ++ lo ++ 0#2) 0x3b w _ (by revert lo; decide)⟩
theorem wrDigest (n : BitVec 3) (w : Word) : Statement (.wrDigest n w) :=
  ⟨⟨"WR.DIGEST", 0xe000000000, 0xe300000000⟩, by decide, rfl,
    reg 1 (1#1 ++ n ++ 0#2) 0x23 w _ (by revert n; decide)⟩
theorem rdCtrl (w : Word) : Statement (.rdCtrl w) :=
  ⟨⟨"RD.CTRL", 0x4000000000, 0xff00000000⟩, by decide, rfl, reg 0 0x00 0x3f w _ rfl⟩
theorem rdStatus (w : Word) : Statement (.rdStatus w) :=
  ⟨⟨"RD.STATUS", 0x4400000000, 0xff00000000⟩, by decide, rfl, reg 0 0x04 0x3f w _ rfl⟩
theorem rdDataWord (w : Word) : Statement (.rdDataWord w) :=
  ⟨⟨"RD.DATA_WORD", 0x4800000000, 0xff00000000⟩, by decide, rfl, reg 0 0x08 0x3f w _ rfl⟩
theorem rdDataByte (w : Word) : Statement (.rdDataByte w) :=
  ⟨⟨"RD.DATA_BYTE", 0x4c00000000, 0xff00000000⟩, by decide, rfl, reg 0 0x0c 0x3f w _ rfl⟩
theorem rdBitlenHi (w : Word) : Statement (.rdBitlenHi w) :=
  ⟨⟨"RD.BITLEN_HI", 0x5000000000, 0xff00000000⟩, by decide, rfl, reg 0 0x10 0x3f w _ rfl⟩
theorem rdBitlenLo (w : Word) : Statement (.rdBitlenLo w) :=
  ⟨⟨"RD.BITLEN_LO", 0x5400000000, 0xff00000000⟩, by decide, rfl, reg 0 0x14 0x3f w _ rfl⟩
theorem rdRsv (lo : BitVec 1) (w : Word) : Statement (.rdRsv lo w) :=
  ⟨⟨"RD.RSV", 0x5800000000, 0xfb00000000⟩, by decide, rfl,
    reg 0 (3#3 ++ lo ++ 0#2) 0x3b w _ (by revert lo; decide)⟩
theorem rdDigest (n : BitVec 3) (w : Word) : Statement (.rdDigest n w) :=
  ⟨⟨"RD.DIGEST", 0x6000000000, 0xe300000000⟩, by decide, rfl,
    reg 0 (1#1 ++ n ++ 0#2) 0x23 w _ (by revert n; decide)⟩
theorem busErrSize (rw : BitVec 1) (o : BitVec 6) (w : Word) : Statement (.busErrSize rw o w) := by
  refine ⟨⟨"BUSERR.SIZE", 0x0000000000, 0x4000000000⟩, by decide, rfl, ?_⟩
  change (t40 rw 0 o w &&& t40 0 1 0 0 == 0) = true
  rw [beq_iff_eq, t40_and]; simp; rfl
theorem busErrAlignOdd (rw : BitVec 1) (o : BitVec 5) (w : Word) : Statement (.busErrAlignOdd rw o w) := by
  refine ⟨⟨"BUSERR.ALIGN_ODD", 0x4100000000, 0x4100000000⟩, by decide, rfl, ?_⟩
  change (t40 rw 1 (o ++ 1#1) w &&& t40 0 1 1 0 == t40 0 1 1 0) = true
  have h : (o ++ 1#1 : BitVec 6) &&& 1 = 1 := by revert o; decide
  rw [beq_iff_eq, t40_and, h]; simp
theorem busErrAlign2 (rw : BitVec 1) (o : BitVec 4) (w : Word) : Statement (.busErrAlign2 rw o w) := by
  refine ⟨⟨"BUSERR.ALIGN_2", 0x4200000000, 0x4300000000⟩, by decide, rfl, ?_⟩
  change (t40 rw 1 (o ++ 2#2) w &&& t40 0 1 3 0 == t40 0 1 2 0) = true
  have h : (o ++ 2#2 : BitVec 6) &&& 3 = 2 := by revert o; decide
  rw [beq_iff_eq, t40_and, h]; simp

end Sys2Proof.Laws.EncodingInRow
end

