-- ==== Sys2Proof/Laws/Runs.lean ====
section
/-! SUPPORT. Runs taken apart and put together, and the engine's walk through a block. -/

namespace Sys2Proof.Machine

/-! ## Runs -/

/-- One step, then the rest, for any machine of the host's interface. -/
theorem run_succ (M : Host.Core) (n : Nat) (s : M.State) :
    M.run (n + 1) s = (match M.step s with
      | .next t => M.run n t
      | .fault r => .fault r
      | .refused r => .refused r) := rfl

theorem reaches_zero {s t : State} : reaches 0 s t ↔ t = s := by
  constructor
  · intro h; exact (Host.Outcome.next.inj h).symm
  · rintro rfl; rfl

theorem reaches_succ {n : Nat} {s u : State} : reaches (n + 1) s u ↔ ∃ t, step s = .next t ∧ reaches n t u := by
  constructor
  · intro h
    have h' := (run_succ Sys2Proof.core n s).symm.trans h
    split at h'
    · rename_i t ht; exact ⟨t, ht, h'⟩
    · cases h'
    · cases h'
  · rintro ⟨t, ht, h⟩
    have ht' : Sys2Proof.core.step s = .next t := ht
    refine (run_succ Sys2Proof.core n s).trans ?_
    rw [ht']; exact h

/-- Two runs one after the other. -/
theorem reaches_add {n m : Nat} {s t u : State} (h1 : reaches n s t) (h2 : reaches m t u) : reaches (n + m) s u := by
  induction n generalizing s with
  | zero => rw [reaches_zero] at h1; subst h1; simpa using h2
  | succ n ih =>
    obtain ⟨v, hv, h1⟩ := reaches_succ.mp h1
    rw [Nat.add_right_comm]
    exact reaches_succ.mpr ⟨v, hv, ih h1⟩

/-- A run leads to one state. -/
theorem reaches_unique {n : Nat} {s t u : State} (h1 : reaches n s t) (h2 : reaches n s u) : t = u :=
  Host.Outcome.next.inj (h1.symm.trans h2)

/-! ## The engine's walk -/

/-- A round step before the last round. -/
theorem roundStep_of_lt {c : CoreState} (h : c.t.toNat < 63) :
    roundStep c = { c with wv := shaRound c.wv (K c.t.toNat) (schedWord c.buf c.t.toNat), t := c.t + 1 } := by
  have : ¬c.t = 63#6 := by intro h'; simp [h'] at h
  simp [roundStep, this]

/-- The last round step. -/
theorem roundStep_last {c : CoreState} (h : c.t = 63) :
    roundStep c = { c with wv := shaRound c.wv (K 63) (schedWord c.buf 63), phase := .update } := by
  simp [roundStep, h]

/-- SequencerNext leaves the engine busy only for the second padding block. -/
theorem sequencerNext_busy (c : CoreState) : (sequencerNext c).busy = (c.fin && c.pend2) := by
  unfold sequencerNext
  cases hf : c.fin <;> cases hp : c.pend2 <;> simp [CoreState.busy, padBlock2, startBlock]

/-- While BUSY = 1 a step without a reset event is the engine's, or answers a transaction that is never held and leaves the
core alone. -/
theorem step_busy_cases {s t : State} (hb : s.core.busy = true) (hr : s.noReset) (h : step s = .next t) :
    t = { s with core := engineStep s.core, turns := s.turns.tail } ∨
    ∃ w rest r, s.pending = w :: rest ∧ neverHeld (decode w) = true ∧
      t = { s with pending := rest, turns := s.turns.tail, replies := r :: s.replies } := by
  rcases step_cases h with ⟨p, wv, r, b, ts, ht, -⟩ | ⟨-, ht⟩ | ⟨w, rest, hp, hh, he⟩ | ⟨hb', -⟩
  · have := hr _ (ht ▸ List.mem_cons_self ..)
    simp [Turn.isAgents] at this
  · exact .inl ht
  · have hn : neverHeld (decode w) = true := by simpa [held, hb] using hh
    rcases exec_cases he with ⟨hh', -⟩ | ⟨c, r, hc, ht⟩
    · simp [held, hn] at hh'
    · refine .inr ⟨w, rest, r, hp, hn, ?_⟩
      cases hc with
      | same => exact ht
      | rejected k e idle => simp [hb] at idle
      | init ign what idle => simp [hb] at idle
      | byte w what idle => simp [hb] at idle
      | word w what idle => simp [hb] at idle
      | finalize ign what idle => simp [hb] at idle
  · simp [hb] at hb'

/-- A step keeps the absence of reset events. -/
theorem step_turns {s t : State} (h : step s = .next t) : t.turns = s.turns.tail := by
  rcases step_cases h with ⟨p, wv, r, b, ts, ht, rfl⟩ | ⟨-, rfl⟩ | ⟨w, rest, hp, hh, he⟩ | ⟨-, -, rfl⟩
  · have : ∀ u : State, (loseOutstanding u).turns = u.turns := by
      intro u; unfold loseOutstanding; split <;> rfl
    rw [ht]
    simp only [resetCore]
    split
    · exact this _
    · rfl
  · rfl
  · rcases exec_cases he with ⟨-, rfl⟩ | ⟨c, r, -, rfl⟩ <;> rfl
  · rfl

end Sys2Proof.Machine
end

