-- ==== Sys2Proof/Laws/Sha.lean ====
section
/-! SUPPORT. The schedule word by word, and the sizes of the padded message. -/

namespace Sys2Proof.Machine

/-! ## The schedule (42_compressor.md R140, R141) -/

theorem length_extendSchedule (n : Nat) (w : List Word) : (extendSchedule n w).length = w.length + n := by
  induction n generalizing w with
  | zero => rfl
  | succ n ih => simp [extendSchedule, ih]; omega

/-- Extending keeps the words that are there. -/
theorem getD_extendSchedule (n : Nat) (w : List Word) (i : Nat) (hi : i < w.length) :
    (extendSchedule n w).getD i 0 = w.getD i 0 := by
  induction n generalizing w with
  | zero => rfl
  | succ n ih => rw [extendSchedule, ih _ (by simp; omega)]; simp [List.getD, List.getElem?_append_left hi]

theorem length_sched (b : Block) : (sched b).length = 64 := by simp [sched, length_extendSchedule]

/-! ## Sizes (41_padder.md R102) -/

theorem length_be64Bytes (n : BitVec 64) : (be64Bytes n).length = 8 := by simp [be64Bytes]

theorem length_zeroFill (p : List Byte) : (zeroFill p).length % 64 = 56 ∧ p.length ≤ (zeroFill p).length := by
  simp only [zeroFill, List.length_append, List.length_replicate]; omega

theorem length_paddedBytes (m : List Byte) : (paddedBytes m).length % 64 = 0 := by
  have := (length_zeroFill (m ++ [0x80])).1
  simp only [paddedBytes, List.length_append, length_be64Bytes]; omega

theorem length_blocks (p : List Byte) : (blocks p).length = p.length / 64 := by simp [blocks]

end Sys2Proof.Machine
end

