-- ==== Sys2Proof/Tests/Slice0.lean ====
section
/-! SUPPORT. The model's own tests, their expected results from the spec's encodings and vectors (30_encoding.md R74,
95_test_vectors.md), and for each statement with hypotheses a state and operands that meet them. -/

namespace Sys2Proof.Tests

open Sys2Proof.Machine

/-! ## Helpers -/

/-- An idle core with BUF, WV and T at 0 and H = IV. -/
def coreAt (mode : Mode) (n : BitVec 7) (bitlen : BitVec 64) : CoreState :=
  { State.reset.core with mode := mode, bufCnt := n, bitlen := bitlen }

/-- The same core with the engine in `phase` at round `t`. -/
def busyAt (phase : Phase) (t : BitVec 6) (mode : Mode) (bitlen : BitVec 64) : CoreState :=
  { coreAt mode 64 bitlen with phase := phase, t := t }

def machine (c : CoreState) (pending : List (BitVec 40)) (turns : List Turn) : State :=
  { core := c, pending := pending, turns := turns, replies := [] }

def idle (mode : Mode) (n : BitVec 7) (bitlen : BitVec 64) : State := machine (coreAt mode n bitlen) [] []

def coreOf (r : Result) : Option CoreState :=
  match r with
  | .next s => some s.core
  | .fault _ => none
  | .refused _ => none

def statusOf (r : Result) : Option Word := (coreOf r).map status

def bitlenOf (r : Result) : Option (BitVec 64) := (coreOf r).map (·.bitlen)

def replyOf (r : Result) : Option Reply :=
  match r with
  | .next s => s.replies.head?
  | .fault _ => none
  | .refused _ => none

/-- The state that `n` steps lead to, `s` itself if the run stops. -/
def after (n : Nat) (s : State) : State :=
  match Sys2Proof.core.run n s with
  | .next t => t
  | .fault _ => s
  | .refused _ => s

/-! ## Well-formed transactions (30_encoding.md R71): WDATA is 0 for a read -/

theorem test_wf_refuses_read_with_data : Instr.wf (.rdStatus 1) = false := by decide
theorem test_wf_refuses_digest_read_with_data : Instr.wf (.rdDigest 7 0x80000000) = false := by decide
theorem test_wf_refuses_bus_error_read_with_data : Instr.wf (.busErrSize 0 0x0c 0x61) = false := by decide
theorem test_wf_accepts_bus_error_write_with_data : Instr.wf (.busErrSize 1 0x0c 0x61) = true := by decide

/-! ## Decoding: words written out from 30_encoding.md R71 and R74, RW ‖ SZ4 ‖ OFFSET ‖ WDATA -/

theorem test_decode_nop : decode (1#1 ++ 1#1 ++ 0b000000#6 ++ 0x12345670#32) = .wrCtrlNop 0x1234567 := by decide
theorem test_decode_init : decode (1#1 ++ 1#1 ++ 0b000000#6 ++ 0xfffffff1#32) = .wrCtrlInit 0xfffffff := by decide
theorem test_decode_finalize : decode (1#1 ++ 1#1 ++ 0b000000#6 ++ 0x00000002#32) = .wrCtrlFinalize 0 := by decide
theorem test_decode_rsv3 : decode (1#1 ++ 1#1 ++ 0b000000#6 ++ 0x00000013#32) = .wrCtrlRsv3 1 := by decide
theorem test_decode_rsv4_7 : decode (1#1 ++ 1#1 ++ 0b000000#6 ++ 0x00000007#32) = .wrCtrlRsv4_7 0 3 := by decide
theorem test_decode_rsv8_f : decode (1#1 ++ 1#1 ++ 0b000000#6 ++ 0x0000000e#32) = .wrCtrlRsv8_F 0 6 := by decide
theorem test_decode_data_word : decode (1#1 ++ 1#1 ++ 0b001000#6 ++ 0x62636465#32) = .wrDataWord 0x62636465 := by decide
theorem test_decode_data_byte : decode (1#1 ++ 1#1 ++ 0b001100#6 ++ 0x00000161#32) = .wrDataByte 0x161 := by decide
theorem test_decode_wr_status : decode (1#1 ++ 1#1 ++ 0b000100#6 ++ 0xffffffff#32) = .wrStatus 0xffffffff := by decide
theorem test_decode_wr_bitlen : decode (1#1 ++ 1#1 ++ 0b010100#6 ++ 0x00000005#32) = .wrBitlen 1 5 := by decide
theorem test_decode_wr_rsv : decode (1#1 ++ 1#1 ++ 0b011000#6 ++ 0x00000001#32) = .wrRsv 0 1 := by decide
theorem test_decode_wr_digest : decode (1#1 ++ 1#1 ++ 0b101100#6 ++ 0x00000000#32) = .wrDigest 3 0 := by decide
theorem test_decode_rd_ctrl : decode (0#1 ++ 1#1 ++ 0b000000#6 ++ 0#32) = .rdCtrl 0 := by decide
theorem test_decode_rd_status : decode (0#1 ++ 1#1 ++ 0b000100#6 ++ 0#32) = .rdStatus 0 := by decide
theorem test_decode_rd_data_word : decode (0#1 ++ 1#1 ++ 0b001000#6 ++ 0#32) = .rdDataWord 0 := by decide
theorem test_decode_rd_data_byte : decode (0#1 ++ 1#1 ++ 0b001100#6 ++ 0#32) = .rdDataByte 0 := by decide
theorem test_decode_rd_bitlen_hi : decode (0#1 ++ 1#1 ++ 0b010000#6 ++ 0#32) = .rdBitlenHi 0 := by decide
theorem test_decode_rd_bitlen_lo : decode (0#1 ++ 1#1 ++ 0b010100#6 ++ 0#32) = .rdBitlenLo 0 := by decide
theorem test_decode_rd_rsv : decode (0#1 ++ 1#1 ++ 0b011100#6 ++ 0#32) = .rdRsv 1 0 := by decide
theorem test_decode_rd_digest : decode (0#1 ++ 1#1 ++ 0b111000#6 ++ 0#32) = .rdDigest 6 0 := by decide
theorem test_decode_bus_error_size : decode (1#1 ++ 0#1 ++ 0b001101#6 ++ 0x61#32) = .busErrSize 1 0x0d 0x61 := by decide
theorem test_decode_bus_error_odd : decode (0#1 ++ 1#1 ++ 0b000101#6 ++ 0#32) = .busErrAlignOdd 0 2 0 := by decide
theorem test_decode_bus_error_2 : decode (1#1 ++ 1#1 ++ 0b001010#6 ++ 0#32) = .busErrAlign2 1 2 0 := by decide

/-- A number that does not fit in its bits, or more bits than T40 has, is refused. -/
theorem test_table_word_refused : decodeTableWord 8 256 = none ∧ decodeTableWord 48 0 = none := by decide
theorem test_table_word : decodeTableWord 40 0xc000000001 = some (.wrCtrlInit 0) := by decide

/-! ## Primitives (95_test_vectors.md section 2.1) -/

theorem test_add32 : add32 0x6a09e667 0x5d6aebcd = 0xc774d234 ∧ add32 0xffffffff 1 = 0 := by decide
theorem test_rotr : rotr 1 7 = 0x02000000 ∧ rotr 0x80000000 25 = 0x00000040 := by decide
theorem test_shr : shr 0xffffffff 10 = 0x003fffff := by decide
theorem test_small_sigma0 : smallSigma0 0x61626380 = 0x940e90ef ∧ smallSigma0 1 = 0x02004000 := by decide
theorem test_small_sigma1 : smallSigma1 0x61626380 = 0x7da86405 ∧ smallSigma1 1 = 0x0000a000 := by decide
theorem test_big_sigma0 : bigSigma0 0x6a09e667 = 0xce20b47e ∧ bigSigma0 1 = 0x40080400 := by decide
theorem test_big_sigma1 : bigSigma1 0x510e527f = 0x3587272b ∧ bigSigma1 1 = 0x04200080 := by decide
theorem test_ch : ch 0x510e527f 0x9b05688c 0x1f83d9ab = 0x1f85c98c ∧ ch 0xffff0000 0x12345678 0x9abcdef0 = 0x1234def0 := by
  decide
theorem test_maj : maj 0x6a09e667 0xbb67ae85 0x3c6ef372 = 0x3a6fe667 ∧ maj 0xf0f0f0f0 0xff00ff00 0xffff0000 = 0xfff0f000 := by
  decide

/-! ## Padding and the compressor (sections 2.2 and 2.3) -/

/-- pad("abc"): W[0] and W[15] of its one block. -/
def abcBlock : Block := blockOf fun i => [0x61, 0x62, 0x63, 0x80].getD i (if i = 63 then 0x18 else 0)

theorem test_pad_sizes : (paddedBytes (List.replicate 55 0x61)).length = 64 ∧
    (paddedBytes (List.replicate 56 0x61)).length = 128 := by decide +kernel
theorem test_pad_abc : blockWord abcBlock 0 = 0x61626380 ∧ blockWord abcBlock 15 = 0x18 := by decide
theorem test_schedule : schedWord abcBlock 16 = 0x61626380 ∧ schedWord abcBlock 18 = 0x7da86405 := by decide +kernel
theorem test_round_step0 : (engineStep (startBlock { State.reset.core with buf := abcBlock })).wv =
    ⟨0x5d6aebcd, 0x6a09e667, 0xbb67ae85, 0x3c6ef372, 0xfa2a4622, 0x510e527f, 0x9b05688c, 0x1f83d9ab⟩ := by
  decide +kernel
theorem test_update_step : (engineStep { busyAt .update 63 .absorbing 24 with
    fin := true
    wv := ⟨0x506e3058, 0xd39a2165, 0x04d24d6c, 0xb85e2ce9, 0x5ef50f24, 0xfb121210, 0x948d25b6, 0x961f4894⟩ }).h =
    ⟨0xba7816bf, 0x8f01cfea, 0x414140de, 0x5dae2223, 0xb00361a3, 0x96177a9c, 0xb410ff61, 0xf20015ad⟩ := by
  decide +kernel
theorem test_finalize_56 : (fun c => (c.phase, c.fin, c.pend2, status c))
    (finalizeTail (coreAt .absorbing 56 448)) = (.round, true, true, 0x00004005) := by decide
theorem test_update_starts_block2 : (fun c => (c.phase, c.t, c.fin, c.pend2, status c))
    (engineStep { busyAt .update 63 .absorbing 448 with fin := true, pend2 := true }) =
    (.round, 0, true, false, 0x00004005) := by decide
theorem test_update_finishes : (fun c => (c.phase, c.fin, status c))
    (engineStep { busyAt .update 63 .absorbing 448 with fin := true }) = (.idle, false, 0x00000002) := by decide

/-! ## Register access (section 2.5) -/

theorem test_rd_status_reset : replyOf (exec (.rdStatus 0) State.reset) = some (.data 0) := by decide
theorem test_rd_digest_reset : replyOf (exec (.rdDigest 0 0) State.reset) = some (.data 0x6a09e667) ∧
    replyOf (exec (.rdDigest 7 0) State.reset) = some (.data 0x5be0cd19) := by decide
theorem test_rd_bitlen : replyOf (exec (.rdBitlenLo 0) (idle .absorbing 3 0x18)) = some (.data 0x18) ∧
    replyOf (exec (.rdBitlenHi 0) (idle .absorbing 60 0xffffffe000000018)) = some (.data 0xffffffe0) := by decide
theorem test_data_byte : statusOf (exec (.wrDataByte 0x161) State.reset) = some 0x00000101 := by decide
theorem test_data_byte_value : (coreOf (exec (.wrDataByte 0x161) State.reset)).map (fun c => blockByte c.buf 0) = some 0x61 := by
  decide
theorem test_data_word : statusOf (exec (.wrDataWord 0x61626364) State.reset) = some 0x00000401 := by decide
theorem test_data_word_order : (coreOf (exec (.wrDataWord 0x61626364) State.reset)).map
    (fun c => (blockByte c.buf 0, blockByte c.buf 3)) = some (0x61, 0x64) := by decide
theorem test_init_clears : statusOf (exec (.wrCtrlInit 0xfffffff)
    (machine { coreAt .failed 1 8 with errCmd := true, ecause := 3 } [] [])) = some 0 := by decide
theorem test_nop : statusOf (exec (.wrCtrlNop 0x1234567) State.reset) = some 0 := by decide
theorem test_reserved : statusOf (exec (.wrCtrlRsv3 0) State.reset) = some 0x00000053 ∧
    statusOf (exec (.wrCtrlRsv8_F 0 7) State.reset) = some 0x00000053 := by decide
theorem test_reserved_finalized : statusOf (exec (.wrCtrlRsv4_7 0 0) (idle .finalized 0 0)) = some 0x00000052 := by decide
theorem test_ignored_write : replyOf (exec (.wrStatus 0xffffffff) State.reset) = some .done ∧
    statusOf (exec (.wrDigest 3 0) State.reset) = some 0 := by decide
theorem test_write_only_reads_zero : replyOf (exec (.rdDataWord 0) (idle .absorbing 3 0x18)) = some (.data 0) ∧
    replyOf (exec (.rdRsv 1 0) (idle .absorbing 3 0x18)) = some (.data 0) := by decide

/-! ## Errors (section 2.7) -/

theorem test_length_byte_accepted : statusOf (exec (.wrDataByte 0x61) (idle .absorbing 62 0xfffffffffffffff0)) = some 0x00003f01 ∧
    bitlenOf (exec (.wrDataByte 0x61) (idle .absorbing 62 0xfffffffffffffff0)) = some 0xfffffffffffffff8 := by decide
theorem test_length_byte_rejected :
    statusOf (exec (.wrDataByte 0x61) (idle .absorbing 63 0xfffffffffffffff8)) = some 0x00003f2b := by decide
theorem test_length_word_accepted :
    statusOf (exec (.wrDataWord 0x61626364) (idle .absorbing 56 0xffffffffffffffc0)) = some 0x00003c01 := by decide
theorem test_length_word_rejected :
    statusOf (exec (.wrDataWord 0x61626364) (idle .absorbing 60 0xffffffffffffffe0)) = some 0x00003c2b := by decide
theorem test_misaligned_before_overflow :
    statusOf (exec (.wrDataWord 0) (idle .absorbing 63 0xfffffffffffffff8)) = some 0x00003f73 := by decide
theorem test_finalized_before_overflow :
    statusOf (exec (.wrDataByte 0) (idle .finalized 0 0xfffffffffffffff8)) = some 0x00000092 := by decide
theorem test_finalize_finalized : statusOf (exec (.wrCtrlFinalize 0) (idle .finalized 0 0)) = some 0x00000092 := by decide
theorem test_finalize_failed : statusOf (exec (.wrCtrlFinalize 0)
    (machine { coreAt .failed 1 8 with errCmd := true, ecause := 3 } [] [])) = some 0x00000173 := by decide

/-! ## Bus errors, holds and reset (sections 2.8 and 2.9) -/

theorem test_bus_error : replyOf (exec (.busErrSize 1 0x0c 0x61) State.reset) = some .busError ∧
    replyOf (exec (.busErrAlign2 1 2 0) (machine (busyAt .round 5 .empty 0) [] [])) = some .busError := by decide
theorem test_status_not_held :
    replyOf (exec (.rdStatus 0) (machine (busyAt .round 5 .empty 0) [] [])) = some (.data 0x00004004) := by decide
/-- A held command stays pending, and the step is the engine's. -/
theorem test_hold : (match step ((machine (busyAt .round 5 .empty 0) [] []).withFetchWord 40 0xc000000007) with
    | .next t => some (t.pending, t.core.t, t.replies)
    | .fault _ => none
    | .refused _ => none) = some ([0xc000000007], 6, []) := by decide
theorem test_reset_abandons : statusOf (step (machine (busyAt .round 10 .empty 0) [] [.reset false IV 9 abcBlock])) =
    some 0 := by decide
theorem test_placed_word_runs : replyOf (step (State.reset.withFetchWord 40 0x7c00000000)) = some (.data 0x5be0cd19) := by
  decide
theorem test_absorb : pseudoAbsorb 0 [0x61, 0x62, 0x63, 0x64, 0x65] = [.wrDataWord 0x61626364, .wrDataByte 0x65] ∧
    pseudoAbsorb 3 [0x61, 0x62, 0x63, 0x64, 0x65] = [.wrDataByte 0x61, .wrDataWord 0x62636465] := by decide

/-! ## Host programs (30_encoding.md R80) -/

/-- The count runs over ABSORBs and starts anew at INIT: after one byte a word must wait for the alignment. -/
theorem test_assemble_counts : assemble [.init, .absorb [0x61], .absorb [0x62, 0x63, 0x64, 0x65], .init, .waitIdle,
    .absorb [0x66, 0x67, 0x68, 0x69]] =
    [.issue (.wrCtrlInit 0), .issue (.wrDataByte 0x61), .issue (.wrDataByte 0x62), .issue (.wrDataByte 0x63),
      .issue (.wrDataByte 0x64), .issue (.wrDataByte 0x65), .issue (.wrCtrlInit 0), .waitIdle,
      .issue (.wrDataWord 0x66676869)] := by decide

/-- The poll of WAITIDLE sees STATUS 0x00004004 while the block runs and 0x00000002 after it (section 2.6). -/
theorem test_waitIdle_polls : HostOp.waitIdle.endedBy (.data 0x00004004) = false ∧
    HostOp.waitIdle.endedBy (.data 0x00000002) = true ∧ HostOp.waitIdle.endedBy .lost = false := by decide

/-! ## Witnesses: for each statement with hypotheses, values that meet them together, clause by clause and at the
boundaries -/

/-- An idle FAILED core as 60_exceptions.md R233 leaves it. -/
def failed : CoreState := { coreAt .failed 1 8 with errCmd := true, ecause := 3 }

/-- The core right after a FINALIZE from reset. -/
def finalizing : CoreState := { busyAt .round 0 .empty 0 with fin := true }

/-- The core in the update phase of a first padding block, a second one to come. -/
def beforeBlock2 : CoreState := { busyAt .update 63 .absorbing 448 with fin := true, pend2 := true }

theorem coreAt_inv : (coreAt .empty 0 0).Inv ∧ (coreAt .absorbing 63 504).Inv ∧ (coreAt .finalized 0 24).Inv := by
  refine ⟨?_, ?_, ?_⟩ <;> (constructor; · constructor <;> decide) <;> decide

theorem failed_inv : failed.Inv := by (constructor; · constructor <;> decide) <;> decide

theorem finalizing_inv : finalizing.Inv := by (constructor; · constructor <;> decide) <;> decide

theorem beforeBlock2_inv : beforeBlock2.Inv := by (constructor; · constructor <;> decide) <;> decide

theorem dataBlock_inv : (busyAt .round 63 .absorbing 512).Inv := by (constructor; · constructor <;> decide) <;> decide

theorem noReset_of {s : State} (h : s.turns.all Turn.isAgents = true) : s.noReset := by
  intro x hx; exact List.all_eq_true.mp h x hx

/-- A run that does not stop reaches the state it leads to. -/
theorem reaches_after {n : Nat} {s : State} (h : (coreOf (Sys2Proof.core.run n s)).isSome = true) : reaches n s (after n s) := by
  unfold reaches after
  cases hr : Sys2Proof.core.run n s with
  | next t => rfl
  | fault f => rw [hr] at h; cases h
  | refused f => rw [hr] at h; cases h

theorem witness_StepRunsDecodedTransaction :
    (let s := machine (coreAt .empty 0 0) [0xc000000001, 0x4400000000] [.host, .engine]
     s.pending = 0xc000000001 :: [0x4400000000] ∧ s.turns = .host :: [.engine] ∧
      held (decode 0xc000000001) s.core = false) ∧
    (let s := machine finalizing [0x4400000000] [.host]
     s.pending = 0x4400000000 :: [] ∧ s.turns = .host :: [] ∧ held (decode 0x4400000000) s.core = false) := by decide

theorem witness_PlacedTransactionRunsNext :
    (0xffffffffff < 2 ^ 40 ∧ held (decode (BitVec.ofNat 40 0xffffffffff)) State.reset.core = false) ∧
    (0 < 2 ^ 40 ∧ held (decode (BitVec.ofNat 40 0)) finalizing = false) := by decide

theorem witness_StepRunsTheEnabledAgent :
    (let s := machine finalizing [0xc000000001] [.host]
     s.noReset ∧ s.core.busy = true ∧ headHeld s = true) ∧
    (let s := machine finalizing [] [.host]
     s.noReset ∧ s.core.busy = true ∧ s.pending = []) ∧
    (let s := machine finalizing [0x4400000000] [.engine]
     s.noReset ∧ s.core.busy = true ∧ s.turns.head? ≠ some .host) ∧
    (let s := machine failed [0xc000000001] [.engine]
     s.noReset ∧ s.core.busy = false ∧ s.pending = 0xc000000001 :: []) ∧
    (let s := machine failed [] [.host]
     s.noReset ∧ s.core.busy = false ∧ s.pending = []) := by
  refine ⟨⟨noReset_of ?_, ?_⟩, ⟨noReset_of ?_, ?_⟩, ⟨noReset_of ?_, ?_⟩, ⟨noReset_of ?_, ?_⟩, ⟨noReset_of ?_, ?_⟩⟩ <;>
    decide

theorem witness_HeldTransactionHasNoEffect :
    (machine finalizing [] []).core.busy = true ∧
    (∀ w, Instr.wrDataByte 0x64 ≠ .rdStatus w) ∧ (∀ rw o w, Instr.wrDataByte 0x64 ≠ .busErrSize rw o w) ∧
    (∀ rw o w, Instr.wrDataByte 0x64 ≠ .busErrAlignOdd rw o w) ∧
    (∀ rw o w, Instr.wrDataByte 0x64 ≠ .busErrAlign2 rw o w) := by
  refine ⟨by decide, ?_, ?_, ?_, ?_⟩ <;> (intros; intro h; cases h)

/-- For the reads that a hold can delay (RdBitlen, RdDigest, RdWriteOnlyAndReserved), the ignored writes, NOP, INIT and the
reserved commands: both clauses, and RdDigest's third. -/
theorem witness_HoldableTransactions :
    (machine beforeBlock2 [] []).core.busy = true ∧ (idle .absorbing 63 504).core.busy = false ∧
    ((idle .empty 0 0).core.busy = false ∧ (idle .empty 0 0).Inv ∧ (idle .empty 0 0).core.mode = .empty) :=
  ⟨by decide, by decide, by decide, coreAt_inv.1, by decide⟩

theorem witness_DataByteAbsorbsOneByte :
    finalizing.busy = true ∧ (failed.busy = false ∧ failed.mode = .failed) ∧
    ((coreAt .finalized 0 0).busy = false ∧ (coreAt .finalized 0 0).mode = .finalized) ∧
    (let c := coreAt .absorbing 63 0xfffffffffffffff8
     c.busy = false ∧ (c.mode = .empty ∨ c.mode = .absorbing) ∧ c.bitlen.toNat > 2 ^ 64 - 1 - 8) ∧
    (let c := coreAt .absorbing 62 0xfffffffffffffff0
     c.busy = false ∧ (c.mode = .empty ∨ c.mode = .absorbing) ∧ c.bitlen.toNat ≤ 2 ^ 64 - 1 - 8 ∧ c.bufCnt.toNat ≤ 63) ∧
    (let c := coreAt .absorbing 63 504
     c.busy = false ∧ (c.mode = .empty ∨ c.mode = .absorbing) ∧ c.bitlen.toNat ≤ 2 ^ 64 - 1 - 8 ∧ c.bufCnt.toNat ≤ 63) := by
  decide

theorem witness_DataWordAbsorbsFourBytes :
    finalizing.busy = true ∧ (failed.busy = false ∧ failed.mode = .failed) ∧
    ((coreAt .finalized 0 0).busy = false ∧ (coreAt .finalized 0 0).mode = .finalized) ∧
    (let c := coreAt .absorbing 63 0xfffffffffffffff8
     c.busy = false ∧ (c.mode = .empty ∨ c.mode = .absorbing) ∧ c.bufCnt.toNat % 4 ≠ 0) ∧
    (let c := coreAt .absorbing 60 0xffffffffffffffe0
     c.busy = false ∧ (c.mode = .empty ∨ c.mode = .absorbing) ∧ c.bufCnt.toNat % 4 = 0 ∧
      c.bitlen.toNat > 2 ^ 64 - 1 - 32) ∧
    (let c := coreAt .absorbing 56 0xffffffffffffffc0
     c.busy = false ∧ (c.mode = .empty ∨ c.mode = .absorbing) ∧ c.bufCnt.toNat % 4 = 0 ∧
      c.bitlen.toNat ≤ 2 ^ 64 - 1 - 32 ∧ c.bufCnt.toNat ≤ 63) ∧
    (let c := coreAt .absorbing 60 480
     c.busy = false ∧ (c.mode = .empty ∨ c.mode = .absorbing) ∧ c.bufCnt.toNat % 4 = 0 ∧
      c.bitlen.toNat ≤ 2 ^ 64 - 1 - 32 ∧ c.bufCnt.toNat ≤ 63) := by decide

/-- Both sides of 55 and 56, and both ends of 0..63. -/
theorem witness_FinalizeAppendsTail :
    finalizing.busy = true ∧ (failed.busy = false ∧ failed.mode = .failed) ∧
    ((coreAt .finalized 0 0).busy = false ∧ (coreAt .finalized 0 0).mode = .finalized) ∧
    (∀ c ∈ [coreAt .empty 0 0, coreAt .absorbing 55 440, coreAt .absorbing 56 448, coreAt .absorbing 63 504],
      c.busy = false ∧ (c.mode = .empty ∨ c.mode = .absorbing) ∧ c.bufCnt.toNat ≤ 63) := by decide

theorem witness_AbsorbingPastTheBufferFaults :
    (let c := coreAt .absorbing 65 0xfffffffffffffff0
     c.busy = false ∧ (c.mode = .empty ∨ c.mode = .absorbing) ∧ c.bufCnt.toNat > 63 ∧ c.bitlen.toNat ≤ 2 ^ 64 - 1 - 8) ∧
    (let c := coreAt .empty 64 0xffffffffffffffd8
     c.busy = false ∧ (c.mode = .empty ∨ c.mode = .absorbing) ∧ c.bufCnt.toNat > 63 ∧ c.bufCnt.toNat % 4 = 0 ∧
      c.bitlen.toNat ≤ 2 ^ 64 - 1 - 32) := by decide

theorem witness_DataWordEqualsFourDataBytes :
    let s := idle .absorbing 60 480
    s.core.busy = false ∧ (s.core.mode = .empty ∨ s.core.mode = .absorbing) ∧ s.core.bufCnt.toNat ≤ 63 ∧
      s.core.bufCnt.toNat % 4 = 0 ∧ s.core.bitlen.toNat ≤ 2 ^ 64 - 1 - 32 := by decide

theorem witness_DataWordReadsBackAsBlockWord :
    let s := idle .absorbing 60 480
    s.core.busy = false ∧ (s.core.mode = .empty ∨ s.core.mode = .absorbing) ∧ s.core.bufCnt.toNat ≤ 63 ∧
      s.core.bufCnt.toNat % 4 = 0 ∧ s.core.bitlen.toNat ≤ 2 ^ 64 - 1 - 32 ∧ ∃ u, exec (.wrDataWord 0x61626364) s = .next u := by
  exact ⟨by decide, by decide, by decide, by decide, by decide, _, rfl⟩

/-- Each clause of FirstConditionDecides. -/
theorem witness_FirstConditionDecides :
    (∃ rw o w, Instr.busErrSize 1 0x0c 0x61 = .busErrSize rw o w) ∧
    held (.wrDataWord 0) finalizing = true ∧
    ((idle .absorbing 63 0xfffffffffffffff8).core.busy = false ∧
      decidingError (.wrDataWord 0) (idle .absorbing 63 0xfffffffffffffff8).core = some (.cmd, .dataWordMisaligned)) ∧
    ((∀ ign, Instr.wrDataByte 0 ≠ .wrCtrlInit ign) ∧
      decidingError (.wrDataByte 0) (idle .absorbing 63 504).core = none ∧
      ∃ t, exec (.wrDataByte 0) (idle .absorbing 63 504) = .next t) := by
  refine ⟨⟨1, 0x0c, 0x61, rfl⟩, by decide, by decide, ?_, by decide, _, rfl⟩
  intro ign h; cases h

theorem witness_RejectionsArePrecise :
    (finalizing.busy = true ∧ decidingError (.wrCtrlRsv3 0) finalizing = some (.cmd, .reservedCmd)) ∧
    ((coreAt .absorbing 63 0xfffffffffffffff8).busy = false ∧
      decidingError (.wrDataByte 0) (coreAt .absorbing 63 0xfffffffffffffff8) = some (.len, .lengthOverflow)) ∧
    (failed.busy = false ∧ decidingError (.wrCtrlFinalize 0) failed = some (.cmd, .inFailed)) ∧
    ((coreAt .finalized 0 0).busy = false ∧
      decidingError (.wrCtrlRsv8_F 0 7) (coreAt .finalized 0 0) = some (.cmd, .reservedCmd)) := by decide

theorem witness_PrimitiveRanges : ((1 : Nat) ≤ 1 ∧ (1 : Nat) ≤ 31 ∧ (0 : Nat) < 32) ∧ ((1 : Nat) ≤ 31 ∧ (31 : Nat) ≤ 31 ∧ (31 : Nat) < 32) ∧
    (0 : Nat) < 16 ∧ (15 : Nat) < 16 ∧ ((16 : Nat) ≤ 16 ∧ (16 : Nat) < 64) ∧ ((16 : Nat) ≤ 63 ∧ (63 : Nat) < 64) := by decide

theorem witness_RoundStepRunsRoundT :
    ((busyAt .round 63 .absorbing 512).phase = .round ∧ (busyAt .round 63 .absorbing 512).t.toNat = 63) ∧
    ((busyAt .round 62 .absorbing 512).phase = .round ∧ (busyAt .round 62 .absorbing 512).t.toNat < 63) ∧
    (finalizing.phase = .round ∧ finalizing.t.toNat < 63) := by decide

theorem witness_UpdateStepAccumulatesAndSequences :
    (beforeBlock2.phase = .update ∧ beforeBlock2.fin = true ∧ beforeBlock2.pend2 = true) ∧
    (let c := { busyAt .update 63 .absorbing 24 with fin := true }
     c.phase = .update ∧ c.fin = true ∧ c.pend2 = false) ∧
    ((busyAt .update 63 .absorbing 512).phase = .update ∧ (busyAt .update 63 .absorbing 512).fin = false) := by decide

theorem witness_EngineControlIgnoresData :
    let d := { finalizing with h := ⟨1, 2, 3, 4, 5, 6, 7, 8⟩, buf := abcBlock }
    finalizing.phase = d.phase ∧ finalizing.t = d.t ∧ finalizing.fin = d.fin ∧ finalizing.pend2 = d.pend2 := by decide

theorem witness_EngineStepCounts :
    (coreAt .absorbing 64 512).fin = false ∧
    ((coreAt .empty 0 0).bufCnt.toNat ≤ 55 ∧ (coreAt .absorbing 55 440).bufCnt.toNat ≤ 55) ∧
    (56 ≤ (coreAt .absorbing 56 448).bufCnt.toNat ∧ (coreAt .absorbing 56 448).bufCnt.toNat ≤ 63) ∧
    (56 ≤ (coreAt .absorbing 63 504).bufCnt.toNat ∧ (coreAt .absorbing 63 504).bufCnt.toNat ≤ 63) := by decide

/-- For PadMeetsPostconditions and PadSizes. -/
theorem witness_Pad : pad [] = some (blocks (paddedBytes [])) ∧
    pad (List.replicate 56 0x61) = some (blocks (paddedBytes (List.replicate 56 0x61))) :=
  ⟨if_neg (by decide), if_neg (by decide)⟩

/-- A transaction in progress, a held one, neither, and nothing pending. -/
theorem witness_ResetEventAbandonsBlock :
    (let s := machine finalizing [0x4400000000] [.reset true IV 9 abcBlock]
     s.turns = .reset true IV 9 abcBlock :: [] ∧ s.pending ≠ []) ∧
    (let s := machine finalizing [0xc000000001] [.reset false IV 9 abcBlock]
     s.turns = .reset false IV 9 abcBlock :: [] ∧ headHeld s = true ∧ s.pending ≠ []) ∧
    (let s := machine finalizing [0x4400000000] [.reset false IV 9 abcBlock]
     s.turns = .reset false IV 9 abcBlock :: [] ∧ headHeld s = false) ∧
    (let s := machine finalizing [] [.reset true IV 9 abcBlock]
     s.turns = .reset true IV 9 abcBlock :: [] ∧ s.pending = []) := by decide

/-- For StepKeepsInvariant, InvariantExcludesStops and ModeChangesOnlyByTable: a step of each agent. -/
theorem witness_StepKeepsInvariant :
    ((machine (coreAt .absorbing 63 504) [0xcc00000061] []).Inv ∧
      ∃ t, step (machine (coreAt .absorbing 63 504) [0xcc00000061] []) = .next t) ∧
    ((machine beforeBlock2 [] []).Inv ∧ ∃ t, step (machine beforeBlock2 [] []) = .next t) ∧
    ((machine finalizing [] [.reset false IV 9 abcBlock]).Inv ∧
      ∃ t, step (machine finalizing [] [.reset false IV 9 abcBlock]) = .next t) :=
  ⟨⟨coreAt_inv.2.1, _, rfl⟩, ⟨beforeBlock2_inv, _, rfl⟩, ⟨finalizing_inv, _, rfl⟩⟩

theorem witness_HashStateChangesOnlyByUpdateInitReset :
    (∃ t, step (machine failed [0xc000000001] []) = .next t) ∧ (∃ t, step (machine beforeBlock2 [] []) = .next t) :=
  ⟨⟨_, rfl⟩, ⟨_, rfl⟩⟩

theorem decode_dataByte_ne_init (ign : BitVec 28) : decode 0xcc00000064 ≠ .wrCtrlInit ign := by
  rw [show decode 0xcc00000064 = .wrDataByte 0x64 by decide]; intro h; cases h

theorem witness_DigestSurvivesUntilInit :
    let s := machine (coreAt .finalized 0 24) [0xcc00000064] [.engine]
    s.core.endedWithDigest ∧ s.noReset ∧ (∀ w ∈ s.pending, ∀ ign, decode w ≠ .wrCtrlInit ign) ∧ reaches 1 s (after 1 s) := by
  refine ⟨⟨by decide, by decide⟩, noReset_of (by decide), ?_, reaches_after (by decide)⟩
  intro w hw ign
  rw [List.mem_singleton.mp hw]
  exact decode_dataByte_ne_init ign

theorem witness_EngineStepShowsOnlyCompletion :
    (beforeBlock2.Inv ∧ beforeBlock2.busy = true) ∧
    ((busyAt .round 63 .absorbing 512).Inv ∧ (busyAt .round 63 .absorbing 512).busy = true) :=
  ⟨⟨beforeBlock2_inv, by decide⟩, ⟨dataBlock_inv, by decide⟩⟩

/-- A transaction of each shape of frame. -/
theorem witness_TransactionFrames :
    ∀ i ∈ [Instr.wrDataByte 0x61, .wrDataWord 0x61626364, .wrCtrlFinalize 0, .wrCtrlInit 0, .wrCtrlRsv3 0, .rdDigest 7 0,
      .busErrSize 1 0x0c 0x61], (coreOf (exec i (idle .absorbing 60 480))).isSome = true := by decide

/-- Two states that differ in WV, T and BUF only. -/
theorem witness_UnreadStateIsInvisible :
    let s := machine (coreAt .empty 0 0) [0xcc00000061] [.host]
    let u := machine { coreAt .empty 0 0 with wv := IV, t := 7, buf := abcBlock } [0xcc00000061] [.host]
    s.Inv ∧ s.agrees u ∧ ∃ t, step s = .next t := by
  refine ⟨coreAt_inv.1, ?_, _, rfl⟩
  constructor
  · constructor <;> decide
  · constructor
    all_goals decide

theorem witness_InitForgetsThePast :
    let s := machine (coreAt .finalized 0 24) [0xc000000001, 0xcc00000061] [.host]
    let u := machine failed [0xc000000001, 0xcc00000061] [.host]
    s.core.busy = false ∧ u.core.busy = false ∧ s.sameOutside u ∧ s.pending = 0xc000000001 :: [0xcc00000061] ∧
      decode 0xc000000001 = .wrCtrlInit 0 :=
  ⟨by decide, by decide, by constructor <;> decide, by decide, by decide⟩

/-- For HoldIsLiftedWithin130Steps and EngineIsNeverStarved: the block that takes longest, and one step to go. -/
theorem witness_HoldIsLiftedWithin130Steps :
    (let s := machine { finalizing with mode := .absorbing, pend2 := true, bitlen := 448 } [0x6000000000] [.host, .engine, .host]
     s.Inv ∧ s.noReset ∧ headHeld s = true) ∧
    (let s := machine beforeBlock2 [0xc000000007] [.host]
     s.Inv ∧ s.noReset ∧ headHeld s = true) := by
  refine ⟨⟨?_, noReset_of (by decide), by decide⟩, ⟨beforeBlock2_inv, noReset_of (by decide), by decide⟩⟩
  constructor
  · constructor <;> decide
  all_goals decide

theorem witness_EngineIsNeverStarved :
    let s := machine finalizing [0x4400000000, 0x4400000000] [.host, .engine, .host]
    s.Inv ∧ s.noReset := ⟨finalizing_inv, noReset_of (by decide)⟩

/-- INIT and FINALIZE with nothing between: with the turns given out and with none. -/
def emptyRun (turns : List Turn) : State := machine failed ((pseudoInit ++ [] ++ pseudoFinalize).map encode) turns

theorem emptyRun_quiet : (after 67 (emptyRun [])).quiet ∧ (after 67 (emptyRun [])).core.mode = .finalized := by
  refine ⟨⟨?_, ?_⟩, ?_⟩ <;> decide +kernel

theorem emptyRun_turns_quiet : (after 70 (emptyRun [.host, .engine, .engine, .host])).quiet := by
  constructor <;> decide +kernel

theorem witness_FinalStateIgnoresInterleaving :
    let s := emptyRun []
    let u := emptyRun [.host, .engine, .engine, .host]
    s.core = u.core ∧ s.pending = u.pending ∧ s.noReset ∧ u.noReset ∧ reaches 67 s (after 67 s) ∧
      reaches 70 u (after 70 u) ∧ (after 67 s).quiet ∧ (after 70 u).quiet :=
  ⟨rfl, rfl, noReset_of rfl, noReset_of rfl, reaches_after (by decide +kernel), reaches_after (by decide +kernel),
    emptyRun_quiet.1, emptyRun_turns_quiet⟩

/-- For StartedBlocksAreThePadding and FinalizedHashIsTheDigest. -/
theorem witness_StartedBlocksAreThePadding :
    let s := emptyRun []
    s.core.busy = false ∧ s.noReset ∧ (∀ i ∈ ([] : List Instr), deliveredBytes i ≠ []) ∧
      s.pending = (pseudoInit ++ [] ++ pseudoFinalize).map encode ∧ reaches 67 s (after 67 s) ∧ (after 67 s).quiet ∧
      (after 67 s).core.mode = .finalized ∧
      pad (([] : List Instr).flatMap deliveredBytes) = some (blocks (paddedBytes [])) :=
  ⟨by decide, noReset_of rfl, by simp, rfl, reaches_after (by decide +kernel), emptyRun_quiet.1, emptyRun_quiet.2,
    witness_Pad.1⟩

theorem witness_OneShotContract :
    let m : List Byte := [0x61, 0x62, 0x63, 0x64, 0x65]
    let s := machine failed ((oneShotProgram m).map encode) [.engine, .host, .host]
    s.core.busy = false ∧ s.noReset ∧ m.length ≤ 2 ^ 61 - 1 ∧ s.pending = (oneShotProgram m).map encode :=
  ⟨by decide, noReset_of rfl, by decide, rfl⟩

end Sys2Proof.Tests
end

section
/-! PROOF. Every reachable state meets the invariant (10_state.md R45): the operations that `Sys2Proof/Laws/Invariant.lean`
leaves keep it, every step from a state that meets it answers a next state that meets it, and so does every run. -/

namespace Sys2Proof.Machine

/-! ## The operations that remain -/

/-- The base case: reset, with any values in WV, T and BUF. -/
theorem afterReset_inv (wv : EightWords) (t : BitVec 6) (buf : Block) : (CoreState.afterReset wv t buf).Inv := by
  constructor
  · constructor <;> simp [CoreState.afterReset, CoreState.busy]
  all_goals simp [CoreState.afterReset, CoreState.busy]

theorem code_ne_zero (e : Cause) : e.code ≠ 0 := by cases e <;> decide

theorem code_le_four {e : Cause} (h : e ≠ .inFailed) : e.code.toNat ≤ 4 := by
  cases e with
  | inFailed => exact absurd rfl h
  | _ => decide

/-- `reject` ends the computation or finds it ended: MODE is FAILED, or FINALIZED as before (43_sequencer.md R181). -/
theorem reject_mode_cases (k : ErrorKind) (e : Cause) (c : CoreState) :
    (reject k e c).mode = .failed ∨ (reject k e c).mode = .finalized ∧ c.mode = .finalized := by
  rw [reject_mode]; cases c.mode <;> simp

/-- Some error is recorded after `reject`. -/
theorem reject_recorded (k : ErrorKind) (e : Cause) (c : CoreState) :
    (reject k e c).errLen = true ∨ (reject k e c).errCmd = true := by
  rw [reject_errLen, reject_errCmd]; cases k <;> simp

theorem reject_ecause_ne_zero (k : ErrorKind) (e : Cause) (c : CoreState) : (reject k e c).ecause ≠ 0 := by
  rw [reject_ecause]
  split
  · exact code_ne_zero e
  · assumption

/-- `reject` on an idle core. IN_FAILED is passed to it only in FAILED, where an earlier cause stands already and is
kept (60_exceptions.md R231), so its code 5 never enters ECAUSE. -/
theorem reject_inv {k : ErrorKind} {e : Cause} {c : CoreState} (hi : c.Inv) (hb : c.busy = false)
    (he : e = .inFailed → c.mode = .failed) : (reject k e c).Inv where
  busy_iff_full := by simpa using hi.busy_iff_full
  idle_room := by simpa using hi.idle_room
  count_of_bitlen hm := by rcases reject_mode_cases k e c with h | ⟨h, -⟩ <;> simp [h] at hm
  empty_bitlen hm := by rcases reject_mode_cases k e c with h | ⟨h, -⟩ <;> simp [h] at hm
  finalized_idle hm := by
    rcases reject_mode_cases k e c with h | ⟨-, h⟩
    · simp [h] at hm
    · simpa using hi.finalized_idle h
  failed_recorded _ := ⟨reject_recorded k e c, reject_ecause_ne_zero k e c⟩
  cause_iff := iff_of_false (reject_ecause_ne_zero k e c) (by simpa [or_iff_not_imp_left] using reject_recorded k e c)
  pend2_fin := by simpa using hi.pend2_fin
  bitlen_bytes := by simpa using hi.bitlen_bytes
  data_block h := by simp [hb] at h
  busy_mode h := by simp [hb] at h
  update_round := by simpa using hi.update_round
  empty_fresh hm := by rcases reject_mode_cases k e c with h | ⟨h, -⟩ <;> simp [h] at hm
  cause_range := by
    rw [reject_ecause]
    split
    · rename_i h0
      exact code_le_four fun h => (hi.failed_recorded (he h)).2 h0
    · exact hi.cause_range

/-- IN_FAILED is the deciding error only in FAILED (60_exceptions.md R231, R234). -/
theorem mode_of_decidingError_inFailed {i : Instr} {c : CoreState} {k : ErrorKind}
    (h : decidingError i c = some (k, .inFailed)) : c.mode = .failed := by
  simp only [decidingError, Option.map_eq_some_iff] at h
  obtain ⟨⟨b, x⟩, hf, rfl⟩ := h
  have hp := List.find?_some hf
  have hm := List.mem_of_find?_eq_some hf
  cases i <;> simp_all [errorConditions]

/-- AbsorbByte that does not fill the block leaves the core idle (41_padder.md R104). -/
theorem absorbByte_idle {b : Byte} {c : CoreState} (hb : c.busy = false) (hn : c.bufCnt.toNat < 63) :
    (absorbByte b c).busy = false := by
  have : ¬c.bufCnt + 1 = 64 := by intro h; have := congrArg BitVec.toNat h; simp at this; omega
  rw [busy_eq_false_iff] at hb ⊢
  rw [absorbByte_phase, if_neg this, hb]

theorem toNat_absorbByte_bufCnt {b : Byte} {c : CoreState} (hn : c.bufCnt.toNat ≤ 63) :
    (absorbByte b c).bufCnt.toNat = c.bufCnt.toNat + 1 := by
  simp; omega

theorem toNat_absorbByte_bitlen {b : Byte} {c : CoreState} (hf : c.bitlen.toNat ≤ 2 ^ 64 - 1 - 8) :
    (absorbByte b c).bitlen.toNat = c.bitlen.toNat + 8 := by
  simp; omega

/-- The core meets the invariant and can take `k` more bytes one after the other: AbsorbByte's precondition holds for the
first (41_padder.md R104), BUF has room for all and BITLEN does not overflow. -/
structure CoreState.RoomFor (c : CoreState) (k : Nat) : Prop where
  inv : c.Inv
  idle : c.busy = false
  mode : c.mode = .empty ∨ c.mode = .absorbing
  count : c.bufCnt.toNat + k ≤ 64
  length : c.bitlen.toNat + 8 * k ≤ 2 ^ 64 - 1

theorem absorbByte_inv_of_roomFor {b : Byte} {c : CoreState} {k : Nat} (h : c.RoomFor (k + 1)) :
    (absorbByte b c).Inv := by
  have := h.length
  exact absorbByte_inv h.inv h.idle h.mode (by omega)

/-- A byte that is not the last leaves room for the others. -/
theorem absorbByte_roomFor {b : Byte} {c : CoreState} {k : Nat} (h : c.RoomFor (k + 2)) :
    (absorbByte b c).RoomFor (k + 1) := by
  have hn := h.count
  have hl := h.length
  exact {
    inv := absorbByte_inv_of_roomFor h
    idle := absorbByte_idle h.idle (by omega)
    mode := .inr (absorbByte_mode b c)
    count := by rw [toNat_absorbByte_bufCnt (by omega)]; omega
    length := by rw [toNat_absorbByte_bitlen (by omega)]; omega }

/-- WR DATA_WORD where it is accepted: an aligned count leaves room for all four bytes (41_padder.md R106). -/
theorem absorbWord_inv {w : Word} {c : CoreState} (hi : c.Inv) (hb : c.busy = false)
    (hm : c.mode = .empty ∨ c.mode = .absorbing) (ha : c.bufCnt.toNat % 4 = 0)
    (hf : c.bitlen.toNat ≤ 2 ^ 64 - 1 - 32) : (absorbWord w c).Inv := by
  have hn := (hi.idle_room hb).1
  have four : c.RoomFor 4 := ⟨hi, hb, hm, by omega, by omega⟩
  have three := absorbByte_roomFor (b := dataWordB0 w) four
  have two := absorbByte_roomFor (b := dataWordB1 w) three
  have one := absorbByte_roomFor (b := dataWordB2 w) two
  unfold absorbWord
  exact absorbByte_inv_of_roomFor one

/-- Every effect a transaction can have on the core. -/
theorem coreEffect_inv {i : Instr} {c d : CoreState} (hi : c.Inv) (h : CoreEffect i c d) : d.Inv := by
  cases h with
  | same => exact hi
  | rejected k e idle why => exact reject_inv hi idle fun he => mode_of_decidingError_inFailed (he ▸ why)
  | init ign what idle => exact initCore_inv idle
  | byte w what idle mode fits room => exact absorbByte_inv hi idle mode fits
  | word w what idle mode aligned fits room => exact absorbWord_inv hi idle mode aligned fits
  | finalize ign what idle mode room => exact finalizeTail_inv hi idle mode

/-! ## Every step keeps the invariant -/

theorem exec_inv {i : Instr} {s t : State} (hi : s.Inv) (h : exec i s = .next t) : t.Inv := by
  rcases exec_cases h with ⟨-, rfl⟩ | ⟨c, r, hc, rfl⟩
  · exact hi
  · exact coreEffect_inv hi hc

theorem step_inv {s t : State} (hi : s.Inv) (h : step s = .next t) : t.Inv := by
  rcases step_cases h with ⟨_, wv, r, b, _, -, rfl⟩ | ⟨hb, rfl⟩ | ⟨w, rest, -, -, he⟩ | ⟨-, -, rfl⟩
  · exact afterReset_inv wv r b
  · exact engineStep_inv hi hb
  · exact exec_inv (s := { s with pending := rest, turns := s.turns.tail }) hi he
  · exact hi

/-! ## Every step answers a next state -/

theorem holdWhileBusy_answers {s : State} {r : Result} (h : s.core.busy = false → ∃ t, r = .next t) :
    ∃ t, holdWhileBusy s r = .next t := by
  cases hb : s.core.busy
  · rw [holdWhileBusy_idle hb]; exact h hb
  · exact ⟨s, holdWhileBusy_busy hb _⟩

theorem writeDone_answers (s : State) (c : CoreState) : ∃ t, writeDone s c = .next t := ⟨_, rfl⟩

theorem readReturns_answers (s : State) (v : Word) : ∃ t, readReturns s v = .next t := ⟨_, rfl⟩

theorem execWrDataByte_answers (w : Word) {s : State} (room : s.core.busy = false → bufferHasRoom s.core = true) :
    ∃ t, execWrDataByte w s = .next t := by
  refine holdWhileBusy_answers fun hb => ?_
  rw [if_pos (room hb)]
  split_ifs <;> exact writeDone_answers _ _

theorem execWrDataWord_answers (w : Word) {s : State} (room : s.core.busy = false → bufferHasRoom s.core = true) :
    ∃ t, execWrDataWord w s = .next t := by
  refine holdWhileBusy_answers fun hb => ?_
  rw [if_pos (room hb)]
  split_ifs <;> exact writeDone_answers _ _

theorem execWrCtrlFinalize_answers (ign : BitVec 28) {s : State}
    (room : s.core.busy = false → bufferHasRoom s.core = true) : ∃ t, execWrCtrlFinalize ign s = .next t := by
  refine holdWhileBusy_answers fun hb => ?_
  rw [if_pos (room hb)]
  split_ifs <;> exact writeDone_answers _ _

/-- No transaction faults or is refused while an idle core has room in BUF (41_padder.md R104, R110). -/
theorem exec_answers (i : Instr) {s : State} (room : s.core.busy = false → bufferHasRoom s.core = true) :
    ∃ t, exec i s = .next t := by
  have write : ∀ c, ∃ t, holdWhileBusy s (writeDone s c) = .next t :=
    fun c => holdWhileBusy_answers fun _ => writeDone_answers s c
  have read : ∀ v, ∃ t, holdWhileBusy s (readReturns s v) = .next t :=
    fun v => holdWhileBusy_answers fun _ => readReturns_answers s v
  cases i with
  | wrCtrlFinalize ign => exact execWrCtrlFinalize_answers ign room
  | wrDataWord w => exact execWrDataWord_answers w room
  | wrDataByte w => exact execWrDataByte_answers w room
  | wrCtrlNop | wrCtrlInit | wrCtrlRsv3 | wrCtrlRsv4_7 | wrCtrlRsv8_F | wrStatus | wrBitlen | wrRsv | wrDigest =>
    exact write _
  | rdCtrl | rdDataWord | rdDataByte | rdBitlenHi | rdBitlenLo | rdRsv | rdDigest => exact read _
  | rdStatus | busErrSize | busErrAlignOdd | busErrAlign2 => exact ⟨_, rfl⟩

/-- The invariant gives the room that `exec_answers` asks for (10_state.md R45, item 2). -/
theorem bufferHasRoom_of_inv {c : CoreState} (hi : c.Inv) (hb : c.busy = false) : bufferHasRoom c = true :=
  (bufferHasRoom_iff c).mpr (hi.idle_room hb).1

theorem hostStep_answers {s : State} (hi : s.Inv) : ∃ t, hostStep s = .next t := by
  unfold hostStep
  split
  · exact ⟨s, rfl⟩
  · exact exec_answers _ (bufferHasRoom_of_inv hi)

theorem engineFirst_answers {s : State} (hi : s.Inv) : ∃ t, engineFirst s = .next t := by
  unfold engineFirst
  split
  · exact ⟨_, rfl⟩
  · exact hostStep_answers hi

theorem hostFirst_answers {s : State} (hi : s.Inv) : ∃ t, hostFirst s = .next t := by
  unfold hostFirst
  split
  · exact hostStep_answers hi
  · exact engineFirst_answers hi

theorem step_answers {s : State} (hi : s.Inv) : ∃ t, step s = .next t := by
  unfold step takeTurn
  split
  · exact engineFirst_answers hi
  · exact engineFirst_answers (s := { s with turns := _ }) hi
  · exact hostFirst_answers (s := { s with turns := _ }) hi
  · exact ⟨_, rfl⟩

/-! ## Runs -/

/-- The induction over a run, once: from a state that meets the invariant every number of steps leads to one that meets
it. -/
theorem exists_reaches_inv {s : State} (hi : s.Inv) (n : Nat) : ∃ t, reaches n s t ∧ t.Inv := by
  induction n generalizing s with
  | zero => exact ⟨s, reaches_zero.mpr rfl, hi⟩
  | succ n ih =>
    obtain ⟨u, hu⟩ := step_answers hi
    obtain ⟨t, ht, hti⟩ := ih (step_inv hi hu)
    exact ⟨t, reaches_succ.mpr ⟨u, hu, ht⟩, hti⟩

/-- A whole number of bytes below 2^64 bits is at most 2^64 − 8 bits (10_state.md R28). -/
theorem bitlen_le_of_inv {c : CoreState} (hi : c.Inv) : c.bitlen.toNat ≤ 2 ^ 64 - 8 := by
  have := hi.bitlen_bytes
  omega

/-- Settles O46: reset meets the invariant, every step from a state that meets it answers one that meets it, and the
invariant contains R45 and the two facts about BITLEN. -/
theorem reachableStatesSatisfyR45 : Obligations.ReachableStatesSatisfyR45 := by
  intro wv t0 buf pending turns replies n
  have hi : State.Inv { core := CoreState.afterReset wv t0 buf, pending, turns, replies } := afterReset_inv wv t0 buf
  obtain ⟨t, ht, hti⟩ := exists_reaches_inv hi n
  exact ⟨t, ht, hti.toR45, hti.bitlen_bytes, bitlen_le_of_inv hti⟩

end Sys2Proof.Machine
end

section
/-! PROOF. The register window: the address decode of the host's bus (20_memory.md R51). -/

namespace Sys2Proof.Machine

theorem pBase_mod_64 : Config.pBase % 64 = 0 := Nat.mul_mod_right 64 Config.pBaseBlock

/-- Every offset of the window is decoded, as itself: no two addresses of the window share an offset. -/
@[simp] theorem offsetOf_pBase_add (o : BitVec 6) : offsetOf (Config.pBase + o.toNat) = some o := by
  have inWindow : Config.pBase ≤ Config.pBase + o.toNat ∧ Config.pBase + o.toNat ≤ Config.pBase + 0x3f := by omega
  rw [offsetOf, if_pos inWindow, Nat.add_sub_cancel_left, BitVec.ofNat_toNat, BitVec.setWidth_eq]

/-- Only the addresses of the window are decoded: the distance from P_BASE is at most 0x3F, so the six bits of the
offset hold it. -/
theorem eq_pBase_add_of_offsetOf {a : Nat} {o : BitVec 6} (h : offsetOf a = some o) : a = Config.pBase + o.toNat := by
  rw [offsetOf, Option.ite_none_right_eq_some] at h
  obtain ⟨⟨hlo, hhi⟩, ho⟩ := h
  have hfits : a - Config.pBase < 2 ^ 6 := by omega
  rw [← Option.some.inj ho, BitVec.toNat_ofNat, Nat.mod_eq_of_lt hfits, Nat.add_sub_cancel' hlo]

/-- Settles O60: P_BASE is 64 times a number, and the decode is inverse to adding the offset to P_BASE. -/
theorem windowIsDecodedAtBase : Obligations.WindowIsDecodedAtBase := by
  refine ⟨pBase_mod_64, fun a o => ⟨eq_pBase_add_of_offsetOf, ?_⟩⟩
  rintro rfl
  exact offsetOf_pBase_add o

end Sys2Proof.Machine
end

section
/-! PROOF. The opcode table against the decoder (30_encoding.md R74): the rows exclude each other, and every word lies in
the row of the transaction it decodes to. -/

namespace Sys2Proof

/-! ## Encoding what was decoded -/

theorem encode_decodeCtrlWrite (w : Word) : encode (decodeCtrlWrite w) = t40Write 0x00 w := by
  rw [← ctrl_wdata_append w, decodeCtrlWrite_append]
  generalize w.extractLsb' 4 28 = ign, w.extractLsb' 0 4 = cmd
  split_ifs with h0 h1 h2 h3 h4
  · rw [h0]; rfl
  · rw [h1]; rfl
  · rw [h2]; rfl
  · rw [h3]; rfl
  · have hcmd : 1#2 ++ cmd.extractLsb' 0 2 = cmd := by revert cmd; decide
    rw [encode, hcmd]
  · have hcmd : 1#1 ++ cmd.extractLsb' 0 3 = cmd := by revert cmd; decide
    rw [encode, hcmd]

/-- A register that is none of the first four is in the pair of BITLEN, in the reserved pair, or one of DIGEST, whose
number has its top bit set (10_state.md R35). -/
theorem register_cases (reg : BitVec 4) : reg ∈ [0, 1, 2, 3] ∨ reg.extractLsb' 1 3 = 2 ∨ reg.extractLsb' 1 3 = 3 ∨
    1#1 ++ reg.extractLsb' 0 3 = reg := by
  revert reg; decide

theorem bitlen_register_cases {reg : BitVec 4} (h : reg.extractLsb' 1 3 = 2) : reg = 4 ∨ reg = 5 := by
  revert reg; decide

theorem encode_decodeWrite (reg : BitVec 4) (w : Word) : encode (decodeWrite reg w) = t40Write (reg ++ 0#2) w := by
  unfold decodeWrite
  split_ifs with h0 h1 h2 h3 hbitlen hrsv
  · rw [h0, encode_decodeCtrlWrite]; rfl
  · rw [h1]; rfl
  · rw [h2]; rfl
  · rw [h3]; rfl
  · have hreg : 2#3 ++ reg.extractLsb' 0 1 = reg := by revert reg; decide
    rw [encode, hreg]
  · have hreg : 3#3 ++ reg.extractLsb' 0 1 = reg := by revert reg; decide
    rw [encode, hreg]
  · have hreg : 1#1 ++ reg.extractLsb' 0 3 = reg := by
      simpa only [List.mem_cons, List.not_mem_nil, h0, h1, h2, h3, hbitlen, hrsv, false_or] using register_cases reg
    rw [encode, hreg]

theorem encode_decodeRead (reg : BitVec 4) (w : Word) : encode (decodeRead reg w) = t40Read (reg ++ 0#2) w := by
  unfold decodeRead
  split_ifs with h0 h1 h2 h3 h4 h5 hrsv
  · rw [h0]; rfl
  · rw [h1]; rfl
  · rw [h2]; rfl
  · rw [h3]; rfl
  · rw [h4]; rfl
  · rw [h5]; rfl
  · have hreg : 3#3 ++ reg.extractLsb' 0 1 = reg := by revert reg; decide
    rw [encode, hreg]
  · have hbitlen : ¬ reg.extractLsb' 1 3 = 2 := fun h => (bitlen_register_cases h).elim h4 h5
    have hreg : 1#1 ++ reg.extractLsb' 0 3 = reg := by
      simpa only [List.mem_cons, List.not_mem_nil, h0, h1, h2, h3, hbitlen, hrsv, false_or] using register_cases reg
    rw [encode, hreg]

theorem encode_decode_t40 (rw sz : BitVec 1) (o : BitVec 6) (w : Word) :
    encode (decode (t40 rw sz o w)) = t40 rw sz o w := by
  have hsz : sz ≠ 0 → sz = 1 := (BitVec.eq_zero_or_eq_one sz).resolve_left
  have hrw : rw ≠ 1 → rw = 0 := (BitVec.eq_zero_or_eq_one rw).resolve_right
  rw [decode_t40]
  split_ifs with hsize hodd htwo hwrite
  · rw [hsize]; rfl
  · have ho : o.extractLsb' 1 5 ++ 1#1 = o := by revert o; decide
    rw [encode, ho, hsz hsize]
  · have ho : o.extractLsb' 2 4 ++ 2#2 = o := by revert o; decide
    rw [encode, ho, hsz hsize]
  · have ho : o.extractLsb' 2 4 ++ 0#2 = o := by revert o; decide
    rw [encode_decodeWrite, ho, t40Write, hwrite, hsz hsize]
  · have ho : o.extractLsb' 2 4 ++ 0#2 = o := by revert o; decide
    rw [encode_decodeRead, ho, t40Read, hrw hwrite, hsz hsize]

/-- The decoder drops no bit of a T40 word, the ignored ones included (30_encoding.md R71, R78). -/
theorem encode_decode (t : BitVec 40) : encode (decode t) = t := by
  rw [← t40_of_fields t, encode_decode_t40]

/-! ## The row of a word -/

/-- The family `EncodingInRow` over all transactions. -/
theorem exists_row_matches_encode : ∀ i : Instr, Laws.EncodingInRow.Statement i
  | .wrCtrlNop ign => Laws.EncodingInRow.wrCtrlNop ign
  | .wrCtrlInit ign => Laws.EncodingInRow.wrCtrlInit ign
  | .wrCtrlFinalize ign => Laws.EncodingInRow.wrCtrlFinalize ign
  | .wrCtrlRsv3 ign => Laws.EncodingInRow.wrCtrlRsv3 ign
  | .wrCtrlRsv4_7 ign lo => Laws.EncodingInRow.wrCtrlRsv4_7 ign lo
  | .wrCtrlRsv8_F ign lo => Laws.EncodingInRow.wrCtrlRsv8_F ign lo
  | .wrDataWord w => Laws.EncodingInRow.wrDataWord w
  | .wrDataByte w => Laws.EncodingInRow.wrDataByte w
  | .wrStatus w => Laws.EncodingInRow.wrStatus w
  | .wrBitlen lo w => Laws.EncodingInRow.wrBitlen lo w
  | .wrRsv lo w => Laws.EncodingInRow.wrRsv lo w
  | .wrDigest n w => Laws.EncodingInRow.wrDigest n w
  | .rdCtrl w => Laws.EncodingInRow.rdCtrl w
  | .rdStatus w => Laws.EncodingInRow.rdStatus w
  | .rdDataWord w => Laws.EncodingInRow.rdDataWord w
  | .rdDataByte w => Laws.EncodingInRow.rdDataByte w
  | .rdBitlenHi w => Laws.EncodingInRow.rdBitlenHi w
  | .rdBitlenLo w => Laws.EncodingInRow.rdBitlenLo w
  | .rdRsv lo w => Laws.EncodingInRow.rdRsv lo w
  | .rdDigest n w => Laws.EncodingInRow.rdDigest n w
  | .busErrSize rw o w => Laws.EncodingInRow.busErrSize rw o w
  | .busErrAlignOdd rw o w => Laws.EncodingInRow.busErrAlignOdd rw o w
  | .busErrAlign2 rw o w => Laws.EncodingInRow.busErrAlign2 rw o w

theorem exists_row_matches (t : BitVec 40) :
    ∃ r ∈ opcodeTable, r.mnemonic = (decode t).mnemonic ∧ r.matches t = true := by
  have h : Laws.EncodingInRow.Statement (decode t) := exists_row_matches_encode (decode t)
  rwa [Laws.EncodingInRow.Statement, encode_decode] at h

/-! ## The rows exclude each other -/

/-- Two rows' patterns differ at a bit that both masks keep. -/
def OpcodeRow.differsFrom (r q : OpcodeRow) : Bool := r.pattern &&& q.mask != q.pattern &&& r.mask

/-- A word in both rows would have both patterns at the bits both masks keep. -/
theorem OpcodeRow.not_matches_both {r q : OpcodeRow} (hd : r.differsFrom q = true) {t : BitVec 40}
    (hr : r.matches t = true) (hq : q.matches t = true) : False := by
  rw [OpcodeRow.matches, beq_iff_eq] at hr hq
  have hboth : r.pattern &&& q.mask = q.pattern &&& r.mask := by
    rw [← hr, ← hq, BitVec.and_assoc, BitVec.and_assoc, BitVec.and_comm r.mask]
  simp [OpcodeRow.differsFrom, hboth] at hd

/-- The rows of R74's table exclude each other: a check of its 253 pairs, with no word in it. -/
theorem opcodeTable_pairwise_differsFrom : opcodeTable.Pairwise (fun r q => r.differsFrom q = true) := by decide

/-- The rows a word lies in are still a list of rows that exclude each other, so there is no second one. -/
theorem filter_matches_eq_singleton {r : OpcodeRow} {t : BitVec 40} (hmem : r ∈ opcodeTable)
    (hr : r.matches t = true) : opcodeTable.filter (·.matches t) = [r] := by
  have hin : r ∈ opcodeTable.filter (·.matches t) := List.mem_filter.mpr ⟨hmem, hr⟩
  have hall : ∀ q ∈ opcodeTable.filter (·.matches t), q.matches t = true := fun _ hq => (List.mem_filter.mp hq).2
  have hpair := opcodeTable_pairwise_differsFrom.filter (·.matches t)
  match hrows : opcodeTable.filter (·.matches t) with
  | [] => simp [hrows] at hin
  | [q] =>
    rw [hrows, List.mem_singleton] at hin
    rw [hrows, hin]
  | q :: q' :: rest =>
    rw [hrows] at hpair hall
    have hd : q.differsFrom q' = true := List.rel_of_pairwise_cons hpair (by simp)
    exact (OpcodeRow.not_matches_both hd (hall q (by simp)) (hall q' (by simp))).elim

/-- Settles O3: the decoded transaction's row matches the word, and no two rows match one word. -/
theorem everyWordFallsInExactlyItsRow : Obligations.EveryWordFallsInExactlyItsRow := by
  intro t
  obtain ⟨r, hmem, hname, hmatch⟩ := exists_row_matches t
  rw [filter_matches_eq_singleton hmem hmatch, List.map_singleton, hname]

end Sys2Proof
end

section
/-! PROOF. The padder's transactions (41_padder.md R105, R106, R110), every case. All three pass the same checks before
their own ones: the hold and the two modes in which a computation has ended. -/

namespace Sys2Proof.Machine

/-! ## The checks the three transactions share -/

/-- The hold and the checks of MODE with which R105, R106 and R110 begin, and then `rest`. -/
def whileComputing (s : State) (rest : Result) : Result :=
  holdWhileBusy s <|
    if s.core.mode = .failed then writeDone s (reject .cmd .inFailed s.core)
    else if s.core.mode = .finalized then writeDone s (reject .cmd .afterFinalize s.core)
    else rest

theorem exec_wrDataByte (w : Word) (s : State) : exec (.wrDataByte w) s = whileComputing s
    (if lengthWouldOverflow s.core 8 then writeDone s (reject .len .lengthOverflow s.core)
      else if bufferHasRoom s.core then writeDone s (absorbByte (dataByteOperand w) s.core)
      else .fault .bufferOverrun) := rfl

theorem exec_wrDataWord (w : Word) (s : State) : exec (.wrDataWord w) s = whileComputing s
    (if dataWordMisaligned s.core then writeDone s (reject .cmd .dataWordMisaligned s.core)
      else if lengthWouldOverflow s.core 32 then writeDone s (reject .len .lengthOverflow s.core)
      else if bufferHasRoom s.core then writeDone s (absorbWord w s.core)
      else .fault .bufferOverrun) := rfl

theorem exec_wrCtrlFinalize (ign : BitVec 28) (s : State) : exec (.wrCtrlFinalize ign) s = whileComputing s
    (if bufferHasRoom s.core then writeDone s (finalizeTail s.core) else .fault .bufferOverrun) := rfl

section
variable {s : State} {rest : Result}

theorem whileComputing_busy (hb : s.core.busy = true) : whileComputing s rest = .next s :=
  holdWhileBusy_busy hb _

theorem whileComputing_failed (hb : s.core.busy = false) (hm : s.core.mode = .failed) :
    whileComputing s rest = writeDone s (reject .cmd .inFailed s.core) := by
  rw [whileComputing, holdWhileBusy_idle hb, if_pos hm]

theorem whileComputing_finalized (hb : s.core.busy = false) (hm : s.core.mode = .finalized) :
    whileComputing s rest = writeDone s (reject .cmd .afterFinalize s.core) := by
  have hf : ¬s.core.mode = .failed := by simp [hm]
  rw [whileComputing, holdWhileBusy_idle hb, if_neg hf, if_pos hm]

theorem whileComputing_passed (hb : s.core.busy = false) (hm : s.core.mode = .empty ∨ s.core.mode = .absorbing) :
    whileComputing s rest = rest := by
  have hf : ¬s.core.mode = .failed := by rcases hm with hm | hm <;> simp [hm]
  have hz : ¬s.core.mode = .finalized := by rcases hm with hm | hm <;> simp [hm]
  rw [whileComputing, holdWhileBusy_idle hb, if_neg hf, if_neg hz]

end

/-! ## Absorbing, with the counts as numbers -/

theorem add_ofNat_eq_ofNat {n : Nat} (x : BitVec n) (k : Nat) : x + BitVec.ofNat n k = BitVec.ofNat n (x.toNat + k) := by
  rw [BitVec.ofNat_add, BitVec.ofNat_toNat, BitVec.setWidth_eq]

/-- BUF_CNT counts up to 64 without wrapping. -/
theorem bufCnt_add_eq_64_iff {n : BitVec 7} {k : Nat} (hn : n.toNat ≤ 63) (hk : k ≤ 64) :
    n + BitVec.ofNat 7 k = 64 ↔ n.toNat = 64 - k := by
  have h64 : (64 : BitVec 7).toNat = 64 := rfl
  rw [← BitVec.toNat_inj, BitVec.toNat_add, BitVec.toNat_ofNat, h64]
  omega

/-- AbsorbByte on an idle core (41_padder.md R104): the byte at 63 starts the engine. -/
theorem absorbByte_of_idle (b : Byte) {c : CoreState} (hb : c.busy = false) (hn : c.bufCnt.toNat ≤ 63) :
    absorbByte b c = { c with
      buf := putByte c.buf c.bufCnt.toNat b
      bufCnt := BitVec.ofNat 7 (c.bufCnt.toNat + 1)
      bitlen := BitVec.ofNat 64 (c.bitlen.toNat + 8)
      mode := .absorbing
      wv := if c.bufCnt.toNat = 63 then c.h else c.wv
      t := if c.bufCnt.toNat = 63 then 0 else c.t
      phase := if c.bufCnt.toNat = 63 then .round else .idle } := by
  have full : c.bufCnt + 1 = 64 ↔ c.bufCnt.toNat = 63 := bufCnt_add_eq_64_iff hn (by decide)
  have count : c.bufCnt + 1 = BitVec.ofNat 7 (c.bufCnt.toNat + 1) := add_ofNat_eq_ofNat _ _
  have length : c.bitlen + 8 = BitVec.ofNat 64 (c.bitlen.toNat + 8) := add_ofNat_eq_ofNat _ _
  simp only [absorbByte_eq, full, length, (busy_eq_false_iff c).mp hb]
  rw [count]

/-- The four bytes of a DATA_WORD on an idle core (41_padder.md R106): the word at 60 starts the engine. -/
theorem absorbWord_of_idle (w : Word) {c : CoreState} (hb : c.busy = false) (hn : c.bufCnt.toNat ≤ 63)
    (ha : c.bufCnt.toNat % 4 = 0) :
    absorbWord w c = { c with
      buf := putByte (putByte (putByte (putByte c.buf c.bufCnt.toNat (dataWordB0 w)) (c.bufCnt.toNat + 1) (dataWordB1 w))
        (c.bufCnt.toNat + 2) (dataWordB2 w)) (c.bufCnt.toNat + 3) (dataWordB3 w)
      bufCnt := BitVec.ofNat 7 (c.bufCnt.toNat + 4)
      bitlen := BitVec.ofNat 64 (c.bitlen.toNat + 32)
      mode := .absorbing
      wv := if c.bufCnt.toNat = 60 then c.h else c.wv
      t := if c.bufCnt.toNat = 60 then 0 else c.t
      phase := if c.bufCnt.toNat = 60 then .round else .idle } := by
  have full : c.bufCnt + 4 = 64 ↔ c.bufCnt.toNat = 60 := bufCnt_add_eq_64_iff hn (by decide)
  have count : c.bufCnt + 4 = BitVec.ofNat 7 (c.bufCnt.toNat + 4) := add_ofNat_eq_ofNat _ _
  have length : c.bitlen + 32 = BitVec.ofNat 64 (c.bitlen.toNat + 32) := add_ofNat_eq_ofNat _ _
  simp only [absorbWord_eq w c hn ha, full, length, (busy_eq_false_iff c).mp hb]
  rw [count]

/-- Settles O20: the shared checks, the check of the length, and AbsorbByte. -/
theorem dataByteAbsorbsOneByte : Obligations.DataByteAbsorbsOneByte := by
  intro w s
  rw [exec_wrDataByte]
  refine ⟨whileComputing_busy, whileComputing_failed, whileComputing_finalized, fun hb hm hl => ?overflow,
    fun hb hm hl hn => ?accepted⟩
  case overflow =>
    rw [whileComputing_passed hb hm, if_pos ((lengthWouldOverflow_iff _ _).mpr hl)]
    rfl
  case accepted =>
    have fits : ¬lengthWouldOverflow s.core 8 = true := by rwa [lengthWouldOverflow_iff, Nat.not_lt]
    rw [whileComputing_passed hb hm, if_neg fits, if_pos ((bufferHasRoom_iff _).mpr hn), absorbByte_of_idle _ hb hn]
    rfl

/-- Settles O21: the shared checks, the checks of the count and of the length, and the four bytes. -/
theorem dataWordAbsorbsFourBytes : Obligations.DataWordAbsorbsFourBytes := by
  intro w s
  rw [exec_wrDataWord]
  have aligned (ha : s.core.bufCnt.toNat % 4 = 0) : ¬dataWordMisaligned s.core = true := by
    rwa [dataWordMisaligned_iff, not_not]
  refine ⟨whileComputing_busy, whileComputing_failed, whileComputing_finalized, fun hb hm ha => ?misaligned,
    fun hb hm ha hl => ?overflow, fun hb hm ha hl hn => ?accepted⟩
  case misaligned =>
    rw [whileComputing_passed hb hm, if_pos ((dataWordMisaligned_iff _).mpr ha)]
    rfl
  case overflow =>
    rw [whileComputing_passed hb hm, if_neg (aligned ha), if_pos ((lengthWouldOverflow_iff _ _).mpr hl)]
    rfl
  case accepted =>
    have fits : ¬lengthWouldOverflow s.core 32 = true := by rwa [lengthWouldOverflow_iff, Nat.not_lt]
    rw [whileComputing_passed hb hm, if_neg (aligned ha), if_neg fits, if_pos ((bufferHasRoom_iff _).mpr hn),
      absorbWord_of_idle w hb hn ha]
    rfl

/-! ## The tail -/

/-- FINALIZE's tail, all fields but BUF, whose bytes `blockByte_finalizeTail` gives (41_padder.md R110). -/
theorem finalizeTail_eq (c : CoreState) : finalizeTail c = { c with
    buf := (finalizeTail c).buf
    fin := true
    pend2 := decide (c.bufCnt.toNat ≥ 56)
    bufCnt := 64
    wv := c.h
    t := 0
    phase := .round } := by
  rw [← finalizeTail_pend2 c]
  unfold finalizeTail
  dsimp only
  split <;> rfl

/-- Settles O22: the shared checks, then the tail, its BUF read off byte by byte. -/
theorem finalizeAppendsTail : Obligations.FinalizeAppendsTail := by
  intro ign s
  rw [exec_wrCtrlFinalize]
  refine ⟨whileComputing_busy, whileComputing_failed, whileComputing_finalized, fun hb hm hn =>
    ⟨(finalizeTail s.core).buf, ?next, fun i hi => ?kept, ?one, fun i hlt hi hz => ?zeros, fun hs k hk => ?length⟩⟩
  case next =>
    rw [whileComputing_passed hb hm, if_pos ((bufferHasRoom_iff _).mpr hn), finalizeTail_eq]
    rfl
  case kept =>
    rw [blockByte_finalizeTail _ _ (by omega), if_neg (by omega), if_neg (by omega), if_neg (by omega)]
  case one =>
    rw [blockByte_finalizeTail _ _ (by omega), if_neg (by omega), if_neg (by omega), if_pos rfl]
  case zeros =>
    rw [blockByte_finalizeTail _ _ hi, if_neg (by omega), if_pos hlt]
  case length =>
    rw [blockByte_finalizeTail _ _ (by omega), if_pos (by omega), Nat.add_sub_cancel_left]

end Sys2Proof.Machine
end

section
/-! PROOF. The update step, every case (42_compressor.md R152, 43_sequencer.md R180). -/

namespace Sys2Proof.Machine

/-! ## SequencerNext, an equation per case -/

section
variable {c : CoreState}

theorem sequencerNext_second_block (hf : c.fin = true) (hp : c.pend2 = true) : sequencerNext c = padBlock2 c :=
  if_pos ⟨hf, hp⟩

theorem sequencerNext_finalized (hf : c.fin = true) (hp : c.pend2 = false) :
    sequencerNext c = { c with fin := false, mode := .finalized, phase := .idle } := by
  simp [sequencerNext, hf, hp]

theorem sequencerNext_data_block (hf : c.fin = false) : sequencerNext c = { c with phase := .idle } := by
  simp [sequencerNext, hf]

end

/-- PadBlock2's zeros and its length field (41_padder.md R111). -/
theorem blockByte_padBlock2_zero (c : CoreState) {i : Nat} (hi : i < 56) : blockByte (padBlock2 c).buf i = 0 := by
  rw [blockByte_padBlock2 _ _ (by omega), if_neg (by omega)]

theorem blockByte_padBlock2_length (c : CoreState) {k : Nat} (hk : k < 8) :
    blockByte (padBlock2 c).buf (56 + k) = be64 c.bitlen k := by
  rw [blockByte_padBlock2 _ _ (by omega), if_pos (by omega), Nat.add_sub_cancel_left]

/-- Settles O34: the cases of SequencerNext after H has become the sum. -/
theorem updateStepAccumulatesAndSequences : Obligations.UpdateStepAccumulatesAndSequences := by
  intro c hp
  rw [engineStep_update hp, updateStep]
  refine ⟨fun hf h2 => ⟨(padBlock2 c).buf, ?_, fun i => blockByte_padBlock2_zero c,
    fun k => blockByte_padBlock2_length c⟩, fun hf h2 => ?_, fun hf => ?_⟩
  · exact sequencerNext_second_block hf h2
  · exact sequencerNext_finalized hf h2
  · exact sequencerNext_data_block hf

end Sys2Proof.Machine
end

section
/-! PROOF. The padding function (41_padder.md R100, R101): its blocks joined are the padded message. -/

namespace Sys2Proof.Machine

/-! ## A message cut into blocks and joined again -/

theorem toList_blockOf_getD {p : List Byte} {n : Nat} (h : n + 64 ≤ p.length) :
    (blockOf fun i => p.getD (n + i) 0).toList = (p.drop n).take 64 := by
  refine List.ext_getElem (by simp; omega) fun i hi _ => ?_
  have hi : i < 64 := by simpa using hi
  have hget : (blockOf fun i => p.getD (n + i) 0)[i] = p.getD (n + i) 0 := by simp [blockOf]
  rw [Vector.getElem_toList, hget, List.getElem_take, List.getElem_drop, List.getD_eq_getElem]

/-- The first `k` blocks joined are the first 64k bytes. -/
theorem flatMap_blockOf_range {p : List Byte} {k : Nat} (h : 64 * k ≤ p.length) :
    (List.range k).flatMap (fun j => (blockOf fun i => p.getD (64 * j + i) 0).toList) = p.take (64 * k) := by
  induction k with
  | zero => rfl
  | succ k ih =>
    rw [List.range_succ, List.flatMap_append, ih (by omega), List.flatMap_singleton, toList_blockOf_getD (by omega),
      Nat.mul_succ, List.take_add]

theorem flatMap_toList_blocks {p : List Byte} (h : p.length % 64 = 0) : (blocks p).flatMap Vector.toList = p := by
  have hall : 64 * (p.length / 64) = p.length := by omega
  rw [blocks, List.flatMap_map, flatMap_blockOf_range hall.le, hall, List.take_length]

/-! ## The parts of the padded message -/

theorem exists_paddedBytes_eq (m : List Byte) : ∃ z, paddedBytes m =
    m ++ 0x80 :: (List.replicate z 0 ++ be64Bytes (BitVec.ofNat 64 (8 * m.length))) :=
  ⟨(120 - (m ++ [0x80]).length % 64) % 64,
    by simp only [paddedBytes, zeroFill, List.append_assoc, List.cons_append, List.nil_append, Nat.mul_comm 8]⟩

theorem pad_eq_some {m : List Byte} {bs : List Block} (h : pad m = some bs) : bs = blocks (paddedBytes m) := by
  rw [pad, Option.ite_none_left_eq_some] at h
  exact (Option.some.inj h.2).symm

/-- Where `pad` is defined its blocks are the padded message in order (41_padder.md R100). -/
theorem flatMap_toList_of_pad {m : List Byte} {bs : List Block} (h : pad m = some bs) :
    bs.flatMap Vector.toList = paddedBytes m := by
  rw [pad_eq_some h, flatMap_toList_blocks (length_paddedBytes m)]

/-- Settles O38: the joined blocks are the message, 0x80, zeros and the eight bytes of the length. -/
theorem padMeetsPostconditions : Obligations.PadMeetsPostconditions := by
  intro m bs h
  have hwhole := length_paddedBytes m
  obtain ⟨z, hp⟩ := exists_paddedBytes_eq m
  have hlen : (paddedBytes m).length = m.length + 1 + z + 8 := by
    rw [hp]
    simp only [List.length_append, List.length_cons, List.length_replicate, length_be64Bytes]
    omega
  have hsplit : (paddedBytes m).length - 8 = m.length + (z + 1) := by omega
  simp only [flatMap_toList_of_pad h, hsplit]
  refine ⟨hwhole, by omega, ?message, ?one, fun i hlo hhi => ?zeros, ?length⟩
  case message => rw [hp, List.take_left]
  case one => rw [hp, List.getElem?_append_right le_rfl, Nat.sub_self, List.getElem?_cons_zero]
  case zeros =>
    obtain ⟨j, rfl⟩ : ∃ j, i = m.length + (j + 1) := ⟨i - m.length - 1, by omega⟩
    have hj : j < z := by omega
    simp [hp, List.getElem?_append_right, List.getElem?_append_left, hj]
  case length => simp [hp]

end Sys2Proof.Machine
end

section
/-! PROOF. The engine's 65 steps on a block (42_compressor.md R151 to R153): each round step performs the round that T
names, and the update step adds the result into H. -/

namespace Sys2Proof.Machine

/-! ## One round step -/

/-- A round before the last, with T as a number. -/
theorem engineStep_round_of_lt {c : CoreState} (hp : c.phase = .round) (ht : c.t.toNat < 63) :
    engineStep c = { c with
      wv := shaRound c.wv (K c.t.toNat) (schedWord c.buf c.t.toNat), t := BitVec.ofNat 6 (c.t.toNat + 1) } := by
  have count : c.t + 1 = BitVec.ofNat 6 (c.t.toNat + 1) := add_ofNat_eq_ofNat _ _
  rw [engineStep_round hp, roundStep_of_lt ht, count]

/-- The last round, with T as a number. -/
theorem engineStep_round_last {c : CoreState} (hp : c.phase = .round) (ht : c.t.toNat = 63) :
    engineStep c = { c with
      wv := shaRound c.wv (K c.t.toNat) (schedWord c.buf c.t.toNat), phase := .update } := by
  have hlast : c.t = 63 := BitVec.eq_of_toNat_eq ht
  rw [engineStep_round hp, roundStep_last hlast, ht]

/-- Settles O33: the two cases of T, with the round function written out. -/
theorem roundStepRunsRoundT : Obligations.RoundStepRunsRoundT :=
  fun _ hp => ⟨fun ht => engineStep_round_last hp ht, fun ht => engineStep_round_of_lt hp ht⟩

/-! ## The rounds of a block -/

/-- The core while the engine works on the block that StartBlock found in BUF: only WV, T and PHASE change. -/
def inBlock (c : CoreState) (wv : EightWords) (t : BitVec 6) (phase : Phase) : CoreState :=
  { startBlock c with wv := wv, t := t, phase := phase }

section
variable (c : CoreState) (v : EightWords)

@[simp] theorem inBlock_h (t : BitVec 6) (p : Phase) : (inBlock c v t p).h = c.h := rfl
@[simp] theorem inBlock_wv (t : BitVec 6) (p : Phase) : (inBlock c v t p).wv = v := rfl

theorem startBlock_eq_inBlock : startBlock c = inBlock c c.h 0 .round := rfl

theorem engineStep_inBlock_of_lt {n : Nat} (hn : n < 63) : engineStep (inBlock c v (BitVec.ofNat 6 n) .round) =
    inBlock c (shaRound v (K n) (schedWord c.buf n)) (BitVec.ofNat 6 (n + 1)) .round := by
  have ht : (inBlock c v (BitVec.ofNat 6 n) .round).t.toNat = n := Nat.mod_eq_of_lt (by omega)
  rw [engineStep_round_of_lt rfl (ht.trans_lt hn), ht]
  rfl

theorem engineStep_inBlock_last : engineStep (inBlock c v 63#6 .round) =
    inBlock c (shaRound v (K 63) (schedWord c.buf 63)) 63 .update :=
  engineStep_round_last rfl rfl

end

theorem rounds_succ (b : Block) (v : EightWords) (n : Nat) :
    rounds b v (n + 1) = shaRound (rounds b v n) (K n) (schedWord b n) := rfl

/-- The walk through the rounds, by induction on their number. -/
theorem engineStep_iterate_startBlock (c : CoreState) {n : Nat} (hn : n < 64) :
    engineStep^[n] (startBlock c) = inBlock c (rounds c.buf c.h n) (BitVec.ofNat 6 n) .round := by
  induction n with
  | zero => exact startBlock_eq_inBlock c
  | succ n ih =>
    rw [Function.iterate_succ_apply', ih (by omega), engineStep_inBlock_of_lt _ _ (by omega), rounds_succ]

theorem engineStep_iterate_startBlock_64 (c : CoreState) :
    engineStep^[64] (startBlock c) = inBlock c (rounds c.buf c.h 64) 63 .update := by
  rw [Function.iterate_succ_apply', engineStep_iterate_startBlock c (by decide), engineStep_inBlock_last, ← rounds_succ]

/-! ## The update step -/

/-- SequencerNext leaves the hash state alone, in all its cases (43_sequencer.md R180). -/
@[simp] theorem sequencerNext_h (c : CoreState) : (sequencerNext c).h = c.h := by
  unfold sequencerNext
  split_ifs <;> rfl

theorem engineStep_update_h {c : CoreState} (hp : c.phase = .update) : (engineStep c).h = addWords c.h c.wv := by
  rw [engineStep_update hp, updateStep, sequencerNext_h]

/-- Settles O35: the induction along the rounds, the last round, and the update step. -/
theorem engineComputesCompress : Obligations.EngineComputesCompress := by
  refine fun c => ⟨fun n => engineStep_iterate_startBlock c, engineStep_iterate_startBlock_64 c, ?_⟩
  rw [Function.iterate_succ_apply', engineStep_iterate_startBlock_64, engineStep_update_h rfl, inBlock_h, inBlock_wv,
    compress]

end Sys2Proof.Machine
end

section
/-! PROOF. The word primitives and the message schedule (42_compressor.md R130 to R141). -/

namespace Sys2Proof.Machine

/-! ## add32, shr and rotr -/

theorem toNat_shr (x : Word) (n : Nat) : (shr x n).toNat = x.toNat / 2 ^ n := by
  rw [shr, BitVec.toNat_ushiftRight, Nat.shiftRight_eq_div_pow]

theorem getLsbD_shr (x : Word) (n i : Nat) :
    (shr x n).getLsbD i = (decide (i + n < 32) && x.getLsbD (i + n)) := by
  rw [shr, BitVec.getLsbD_ushiftRight, Nat.add_comm n i]
  by_cases h : i + n < 32
  · simp [h]
  · simp [h, BitVec.getLsbD_of_ge x (i + n) (by omega)]

/-- Each bit of a rotation comes from one of the two shifts: from the right shift where i + n stays below 32, else from
the left shift (R132). -/
theorem getLsbD_rotr {n i : Nat} (x : Word) (hn : 1 ≤ n) (hn' : n ≤ 31) (hi : i < 32) :
    (rotr x n).getLsbD i = x.getLsbD ((i + n) % 32) := by
  rw [rotr, BitVec.getLsbD_or, getLsbD_shr, BitVec.getLsbD_shiftLeft]
  by_cases h : i + n < 32
  · have hleft : i < 32 - n := by omega
    simp [h, hleft, Nat.mod_eq_of_lt h]
  · have hleft : ¬i < 32 - n := by omega
    have hbit : i - (32 - n) = (i + n) % 32 := by omega
    simp [h, hi, hleft, hbit]

/-- Settles O29: the library's laws of addition and of the right shift, and the bits of a rotation. -/
theorem addWrapsShiftDividesRotateMoves : Obligations.AddWrapsShiftDividesRotateMoves :=
  ⟨BitVec.toNat_add, fun x y z => ⟨BitVec.add_assoc x y z, BitVec.add_comm x y⟩, toNat_shr,
    fun x _ _ hn hn' hi => ⟨rfl, getLsbD_rotr x hn hn' hi⟩⟩

/-! ## The sigma functions, Ch and Maj -/

/-- Settles O30: the bits of the rotations and of the shift. -/
theorem sigmasBitwise : Obligations.SigmasBitwise := by
  intro x i hi
  refine ⟨?_, ?_, ?_, ?_⟩
  · simp (disch := omega) only [smallSigma0, BitVec.getLsbD_xor, getLsbD_rotr, getLsbD_shr]
  · simp (disch := omega) only [smallSigma1, BitVec.getLsbD_xor, getLsbD_rotr, getLsbD_shr]
  · simp (disch := omega) only [bigSigma0, BitVec.getLsbD_xor, getLsbD_rotr]
  · simp (disch := omega) only [bigSigma1, BitVec.getLsbD_xor, getLsbD_rotr]

theorem getLsbD_ch (x y z : Word) {i : Nat} (hi : i < 32) :
    (ch x y z).getLsbD i = if x.getLsbD i then y.getLsbD i else z.getLsbD i := by
  rw [ch, BitVec.getLsbD_xor, BitVec.getLsbD_and, BitVec.getLsbD_and, BitVec.getLsbD_not]
  cases x.getLsbD i <;> simp [hi]

/-- The formula of Maj on single bits. -/
theorem xor_and_eq_majority (a b c : Bool) :
    ((a && b) ^^ (a && c) ^^ (b && c)) = decide (a.toNat + b.toNat + c.toNat ≥ 2) := by
  revert a b c; decide

theorem getLsbD_maj (x y z : Word) (i : Nat) :
    (maj x y z).getLsbD i = decide ((x.getLsbD i).toNat + (y.getLsbD i).toNat + (z.getLsbD i).toNat ≥ 2) := by
  simp only [maj, BitVec.getLsbD_xor, BitVec.getLsbD_and, xor_and_eq_majority]

/-- Settles O31: both functions bit by bit. -/
theorem chooseAndMajorityBitwise : Obligations.ChooseAndMajorityBitwise :=
  fun x y z i hi => ⟨getLsbD_ch x y z hi, getLsbD_maj x y z i⟩

/-! ## The message schedule -/

/-- Every word from the seventeenth on is the recurrence's (R141). -/
def FollowsRecurrence (w : List Word) : Prop :=
  ∀ i, 16 ≤ i → i < w.length → w.getD i 0 =
    smallSigma1 (w.getD (i - 2) 0) + w.getD (i - 7) 0 + smallSigma0 (w.getD (i - 15) 0) + w.getD (i - 16) 0

/-- The four words the recurrence reads for the appended word, and for the ones before it, are already there. -/
theorem followsRecurrence_append_next {w : List Word} (h : FollowsRecurrence w) :
    FollowsRecurrence (w ++ [nextScheduleWord w]) := by
  intro i hlo hhi
  have hle : i ≤ w.length := by simpa [Nat.lt_succ_iff] using hhi
  rw [List.getD_append _ _ _ (i - 2) (by omega), List.getD_append _ _ _ (i - 7) (by omega),
    List.getD_append _ _ _ (i - 15) (by omega), List.getD_append _ _ _ (i - 16) (by omega)]
  obtain hlt | rfl := Nat.lt_or_eq_of_le hle
  · rw [List.getD_append _ _ _ i hlt, h i hlo hlt]
  · rw [List.getD_append_right _ _ _ _ le_rfl, Nat.sub_self]
    rfl

theorem followsRecurrence_extendSchedule {w : List Word} (n : Nat) (h : FollowsRecurrence w) :
    FollowsRecurrence (extendSchedule n w) := by
  induction n generalizing w with
  | zero => exact h
  | succ n ih => exact ih (followsRecurrence_append_next h)

theorem length_blockWords (b : Block) : ((List.range 16).map (blockWord b)).length = 16 := by
  rw [List.length_map, List.length_range]

/-- The first 16 words are no case of the recurrence. -/
theorem followsRecurrence_sched (b : Block) : FollowsRecurrence (sched b) := by
  refine followsRecurrence_extendSchedule 48 fun i hlo hhi => ?_
  rw [length_blockWords] at hhi
  omega

theorem schedWord_of_lt (b : Block) {j : Nat} (hj : j < 16) : schedWord b j = blockWord b j := by
  rw [schedWord, sched, getD_extendSchedule _ _ _ ((length_blockWords b).symm ▸ hj)]
  simp [hj]

/-- Settles O32: extending the schedule keeps the block's words and the recurrence. -/
theorem scheduleFollowsRecurrence : Obligations.ScheduleFollowsRecurrence :=
  fun b => ⟨length_sched b, fun _ hj => schedWord_of_lt b hj,
    fun i hlo hhi => followsRecurrence_sched b i hlo ((length_sched b).symm ▸ hhi)⟩

end Sys2Proof.Machine
end

section
/-! PROOF. Decoding an encoded transaction gives it back (30_encoding.md R71, R78). -/

namespace Sys2Proof

/-- A 32-bit access at OFFSET = REG ‖ 00 is no bus error. -/
theorem decode_t40_aligned (rw : BitVec 1) (reg : BitVec 4) (w : Word) :
    decode (t40 rw 1 (reg ++ 0#2) w) = if rw = 1 then decodeWrite reg w else decodeRead reg w := by
  have hall : ∀ reg : BitVec 4, ¬(reg ++ 0#2 : BitVec 6).extractLsb' 0 1 = 1 ∧
      ¬(reg ++ 0#2 : BitVec 6).extractLsb' 0 2 = 2 ∧ (reg ++ 0#2 : BitVec 6).extractLsb' 2 4 = reg := by decide
  obtain ⟨hodd, htwo, hreg⟩ := hall reg
  rw [decode_t40, if_neg (by decide), if_neg hodd, if_neg htwo, hreg]

theorem decode_t40Write (reg : BitVec 4) (w : Word) : decode (t40Write (reg ++ 0#2) w) = decodeWrite reg w :=
  decode_t40_aligned 1 reg w

theorem decode_t40Read (reg : BitVec 4) (w : Word) : decode (t40Read (reg ++ 0#2) w) = decodeRead reg w :=
  decode_t40_aligned 0 reg w

theorem decode_t40Write_ctrl (ign : BitVec 28) (cmd : BitVec 4) :
    decode (t40Write 0x00 (ign ++ cmd)) = decodeCtrlWrite (ign ++ cmd) :=
  decode_t40Write 0 (ign ++ cmd)

/-- The registers with the top bit set are DIGEST's (10_state.md R35). -/
theorem digest_register : ∀ i : BitVec 3, (1#1 ++ i : BitVec 4) ∉ [0, 1, 2, 3, 4, 5] ∧
    ¬(1#1 ++ i : BitVec 4).extractLsb' 1 3 = 2 ∧ ¬(1#1 ++ i : BitVec 4).extractLsb' 1 3 = 3 ∧
    (1#1 ++ i : BitVec 4).extractLsb' 0 3 = i := by decide

theorem decodeWrite_digest (i : BitVec 3) (w : Word) : decodeWrite (1#1 ++ i) w = .wrDigest i w := by
  obtain ⟨hreg, hbitlen, hrsv, hi⟩ := digest_register i
  simp only [List.mem_cons, List.not_mem_nil, or_false, not_or] at hreg
  simp only [decodeWrite, hreg, hbitlen, hrsv, hi, if_false]

theorem decodeRead_digest (i : BitVec 3) (w : Word) : decodeRead (1#1 ++ i) w = .rdDigest i w := by
  obtain ⟨hreg, -, hrsv, hi⟩ := digest_register i
  simp only [List.mem_cons, List.not_mem_nil, or_false, not_or] at hreg
  simp only [decodeRead, hreg, hrsv, hi, if_false]

theorem decodeCtrlWrite_rsv4_7 (ign : BitVec 28) (lo : BitVec 2) :
    decodeCtrlWrite (ign ++ (1#2 ++ lo : BitVec 4)) = .wrCtrlRsv4_7 ign lo := by
  have hall : ∀ lo : BitVec 2, (1#2 ++ lo : BitVec 4) ∉ [0, 1, 2, 3] ∧ (1#2 ++ lo : BitVec 4).extractLsb' 2 2 = 1 ∧
      (1#2 ++ lo : BitVec 4).extractLsb' 0 2 = lo := by decide
  obtain ⟨hcmd, hhi, hlo⟩ := hall lo
  simp only [List.mem_cons, List.not_mem_nil, or_false, not_or] at hcmd
  rw [decodeCtrlWrite_append]
  simp only [hcmd, hhi, hlo, if_false, if_true]

theorem decodeCtrlWrite_rsv8_F (ign : BitVec 28) (lo : BitVec 3) :
    decodeCtrlWrite (ign ++ (1#1 ++ lo : BitVec 4)) = .wrCtrlRsv8_F ign lo := by
  have hall : ∀ lo : BitVec 3, (1#1 ++ lo : BitVec 4) ∉ [0, 1, 2, 3] ∧ ¬(1#1 ++ lo : BitVec 4).extractLsb' 2 2 = 1 ∧
      (1#1 ++ lo : BitVec 4).extractLsb' 0 3 = lo := by decide
  obtain ⟨hcmd, hhi, hlo⟩ := hall lo
  simp only [List.mem_cons, List.not_mem_nil, or_false, not_or] at hcmd
  rw [decodeCtrlWrite_append]
  simp only [hcmd, hhi, hlo, if_false]

/-- The decoder reads back every transaction, with every value of its ignored bits. -/
theorem decode_encode (i : Instr) : decode (encode i) = i := by
  cases i with
  | wrCtrlNop ign | wrCtrlInit ign | wrCtrlFinalize ign | wrCtrlRsv3 ign =>
    exact (decode_t40Write_ctrl ign _).trans (decodeCtrlWrite_append ign _)
  | wrCtrlRsv4_7 ign lo => exact (decode_t40Write_ctrl ign _).trans (decodeCtrlWrite_rsv4_7 ign lo)
  | wrCtrlRsv8_F ign lo => exact (decode_t40Write_ctrl ign _).trans (decodeCtrlWrite_rsv8_F ign lo)
  | wrDataWord w => exact decode_t40Write 2 w
  | wrDataByte w => exact decode_t40Write 3 w
  | wrStatus w => exact decode_t40Write 1 w
  | wrBitlen lo w =>
    obtain rfl | rfl := BitVec.eq_zero_or_eq_one lo
    exacts [decode_t40Write 4 w, decode_t40Write 5 w]
  | wrRsv lo w =>
    obtain rfl | rfl := BitVec.eq_zero_or_eq_one lo
    exacts [decode_t40Write 6 w, decode_t40Write 7 w]
  | wrDigest i w => exact (decode_t40Write (1#1 ++ i) w).trans (decodeWrite_digest i w)
  | rdCtrl w => exact decode_t40Read 0 w
  | rdStatus w => exact decode_t40Read 1 w
  | rdDataWord w => exact decode_t40Read 2 w
  | rdDataByte w => exact decode_t40Read 3 w
  | rdBitlenHi w => exact decode_t40Read 4 w
  | rdBitlenLo w => exact decode_t40Read 5 w
  | rdRsv lo w =>
    obtain rfl | rfl := BitVec.eq_zero_or_eq_one lo
    exacts [decode_t40Read 6 w, decode_t40Read 7 w]
  | rdDigest i w => exact (decode_t40Read (1#1 ++ i) w).trans (decodeRead_digest i w)
  | busErrSize rw o w => exact decode_t40 rw 0 o w
  | busErrAlignOdd rw o w =>
    have hall : ∀ o : BitVec 5, (o ++ 1#1 : BitVec 6).extractLsb' 0 1 = 1 ∧
        (o ++ 1#1 : BitVec 6).extractLsb' 1 5 = o := by decide
    obtain ⟨hodd, hhi⟩ := hall o
    rw [encode, decode_t40, if_neg (by decide), if_pos hodd, hhi]
  | busErrAlign2 rw o w =>
    have hall : ∀ o : BitVec 4, ¬(o ++ 2#2 : BitVec 6).extractLsb' 0 1 = 1 ∧
        (o ++ 2#2 : BitVec 6).extractLsb' 0 2 = 2 ∧ (o ++ 2#2 : BitVec 6).extractLsb' 2 4 = o := by decide
    obtain ⟨hodd, htwo, hhi⟩ := hall o
    rw [encode, decode_t40, if_neg (by decide), if_neg hodd, if_pos htwo, hhi]

end Sys2Proof
end

section
/-! PROOF. The commands of the sequencer (43_sequencer.md R174 to R176): each is held while BUSY = 1 and else completes
with its effect on the core. -/

namespace Sys2Proof.Machine

/-- Settles O17: the hold, and a write that leaves the core as it is. -/
theorem nopChangesNothing : Obligations.NopChangesNothing :=
  fun _ _ => ⟨fun hb => holdWhileBusy_busy hb _, fun hb => holdWhileBusy_idle hb _⟩

/-- Settles O18: the hold, and INIT's core, in which no field depends on MODE. -/
theorem initStartsFreshComputation : Obligations.InitStartsFreshComputation :=
  fun _ _ => ⟨fun hb => holdWhileBusy_busy hb _, fun hb => holdWhileBusy_idle hb _⟩

/-- `reject`, all fields at once (60_exceptions.md R233). -/
theorem reject_eq (k : ErrorKind) (e : Cause) (c : CoreState) : reject k e c = { c with
    errLen := c.errLen || decide (k = .len)
    errCmd := c.errCmd || decide (k = .cmd)
    ecause := if c.ecause = 0 then e.code else c.ecause
    mode := if c.mode = .empty ∨ c.mode = .absorbing then .failed else c.mode } := by
  rw [← reject_errLen k e, ← reject_errCmd k e, ← reject_ecause k e, ← reject_mode k e]
  unfold reject
  cases k <;> dsimp only <;> (repeat' split) <;> rfl

/-- An IllegalCommand (60_exceptions.md R230). -/
theorem reject_cmd_eq (e : Cause) (c : CoreState) : reject .cmd e c = { c with
    errCmd := true
    ecause := if c.ecause = 0 then e.code else c.ecause
    mode := if c.mode = .empty ∨ c.mode = .absorbing then .failed else c.mode } := by
  rw [reject_eq]
  simp

theorem reservedCommand_idle {s : State} (hb : s.core.busy = false) :
    reservedCommand s = writeDone s (reject .cmd .reservedCmd s.core) := holdWhileBusy_idle hb _

theorem exec_of_mem_reserved {ign : BitVec 28} {lo2 : BitVec 2} {lo3 : BitVec 3} {i : Instr}
    (hi : i ∈ [Instr.wrCtrlRsv3 ign, .wrCtrlRsv4_7 ign lo2, .wrCtrlRsv8_F ign lo3]) (s : State) :
    exec i s = reservedCommand s := by
  simp only [List.mem_cons, List.not_mem_nil, or_false] at hi
  obtain rfl | rfl | rfl := hi <;> rfl

/-- Settles O19: the three rows share one rule, and `reject` is the same in every mode but for MODE itself. -/
theorem reservedCommandsAreRejected : Obligations.ReservedCommandsAreRejected := by
  intro ign lo2 lo3 s i hi
  rw [exec_of_mem_reserved hi]
  refine ⟨fun hb => holdWhileBusy_busy hb _, fun hb => ?_⟩
  rw [reservedCommand_idle hb, reject_cmd_eq]
  rfl

end Sys2Proof.Machine
end

section
/-! PROOF. Programs whose transactions all wait for the engine (60_exceptions.md R236). While BUSY = 1 every step is the
engine's and while BUSY = 0 every step is the host's, whoever has the turn, so the turns that the environment chooses make
no difference as long as none is a reset event. -/

namespace Sys2Proof.Machine

/-! ## Reaching a state with a property -/

/-- Some run from `s` reaches a state with the property. -/
def State.Eventually (P : State → Prop) (s : State) : Prop := ∃ n t, reaches n s t ∧ P t

theorem eventually_now {P : State → Prop} {s : State} (h : P s) : s.Eventually P :=
  ⟨0, s, reaches_zero.mpr rfl, h⟩

theorem eventually_of_step {P : State → Prop} {s t : State} (hs : step s = .next t) (h : t.Eventually P) :
    s.Eventually P := by
  obtain ⟨n, u, hn, hu⟩ := h
  exact ⟨n + 1, u, reaches_succ.mpr ⟨t, hs, hn⟩, hu⟩

theorem eventually_trans {P Q : State → Prop} {s : State} (h : s.Eventually P) (hPQ : ∀ t, P t → t.Eventually Q) :
    s.Eventually Q := by
  obtain ⟨n, t, hn, ht⟩ := h
  obtain ⟨m, u, hm, hu⟩ := hPQ t ht
  exact ⟨n + m, u, reaches_add hn hm, hu⟩

/-! ## The step without a reset event -/

section
variable {s : State}

theorem noReset_tail (hr : s.noReset) : ∀ x ∈ s.turns.tail, x.isAgents = true :=
  fun x hx => hr x (List.mem_of_mem_tail hx)

/-- Where no reset event is to come, the turn only says which agent is asked first. -/
theorem step_of_noReset (hr : s.noReset) :
    step s = engineFirst { s with turns := s.turns.tail } ∨ step s = hostFirst { s with turns := s.turns.tail } := by
  obtain ⟨core, pending, turns, replies⟩ := s
  cases turns with
  | nil => exact .inl rfl
  | cons x ts =>
    cases x with
    | engine => exact .inl rfl
    | host => exact .inr rfl
    | reset p wv r b => exact absurd (hr _ (List.mem_cons_self ..)) (by simp [Turn.isAgents])

theorem engineFirst_busy (hb : s.core.busy = true) : engineFirst s = engineTurn s := if_pos hb

theorem engineFirst_idle (hb : s.core.busy = false) : engineFirst s = hostStep s := by
  rw [engineFirst, hb, if_neg (by decide)]

/-- The host has no step while BUSY = 1 and its transactions wait. -/
theorem hostEnabled_eq_false (hb : s.core.busy = true) (hw : ∀ w ∈ s.pending, neverHeld (decode w) = false) :
    hostEnabled s = false := by
  cases hp : s.pending with
  | nil => simp [hostEnabled, hp]
  | cons w rest =>
    have hwait : neverHeld (decode w) = false := hw w (by simp [hp])
    simp [hostEnabled, headHeld, held, hp, hb, hwait]

theorem hostFirst_busy (hb : s.core.busy = true) (hw : ∀ w ∈ s.pending, neverHeld (decode w) = false) :
    hostFirst s = engineTurn s := by
  rw [hostFirst, hostEnabled_eq_false hb hw, if_neg (by decide), engineFirst_busy hb]

theorem hostFirst_idle (hb : s.core.busy = false) : hostFirst s = hostStep s := by
  rw [hostFirst, engineFirst_idle hb, ite_self]

theorem hostStep_cons {w : BitVec 40} {rest : List (BitVec 40)} (hp : s.pending = w :: rest) :
    hostStep s = exec (decode w) { s with pending := rest } := by
  rw [hostStep, hp]

/-- While BUSY = 1 the step is the engine's. -/
theorem step_of_busy (hr : s.noReset) (hb : s.core.busy = true) (hw : ∀ w ∈ s.pending, neverHeld (decode w) = false) :
    step s = .next { s with core := engineStep s.core, turns := s.turns.tail } := by
  rcases step_of_noReset hr with h | h
  · exact h.trans (engineFirst_busy hb)
  · exact h.trans (hostFirst_busy hb hw)

/-- While BUSY = 0 the step is the host's. -/
theorem step_of_idle (hr : s.noReset) (hb : s.core.busy = false) {w : BitVec 40} {rest : List (BitVec 40)}
    (hp : s.pending = w :: rest) : step s = exec (decode w) { s with pending := rest, turns := s.turns.tail } := by
  rcases step_of_noReset hr with h | h
  · exact (h.trans (engineFirst_idle hb)).trans (hostStep_cons hp)
  · exact (h.trans (hostFirst_idle hb)).trans (hostStep_cons hp)

end

/-! ## Programs -/

/-- The host has `program` pending, all of which waits for the engine, no reset event is to come, and the core has the
property. -/
structure State.Runs (program : List Instr) (P : CoreState → Prop) (s : State) : Prop where
  noReset : s.noReset
  pending : s.pending = program.map encode
  waits : ∀ i ∈ program, neverHeld i = false
  core : P s.core

/-- The engine's next steps, none or more, lead to a core with the property, and BUSY = 1 until then. -/
inductive CoreState.Finishes (P : CoreState → Prop) : CoreState → Prop where
  | now {c : CoreState} (h : P c) : Finishes P c
  | step {c : CoreState} (busy : c.busy = true) (rest : Finishes P (engineStep c)) : Finishes P c

theorem finishes_of_iterate {P : CoreState → Prop} {c : CoreState} {n : Nat}
    (hb : ∀ k < n, (engineStep^[k] c).busy = true) (h : (engineStep^[n] c).Finishes P) : c.Finishes P := by
  induction n generalizing c with
  | zero => exact h
  | succ n ih => exact .step (hb 0 (by omega)) (ih (fun k hk => hb (k + 1) (by omega)) h)

section
variable {P Q : CoreState → Prop} {i : Instr} {program : List Instr} {s : State}

theorem decode_pending_waits (h : s.Runs program P) : ∀ w ∈ s.pending, neverHeld (decode w) = false := by
  simpa [h.pending, decode_encode] using h.waits

/-- The machine lets the engine finish. -/
theorem eventually_of_finishes (h : s.Runs program (·.Finishes P)) : s.Eventually (·.Runs program P) := by
  have hfin := h.core
  generalize hc : s.core = c at hfin
  induction hfin generalizing s with
  | now hP => exact eventually_now { h with core := hc ▸ hP }
  | step hb hrest ih =>
    subst hc
    refine eventually_of_step (step_of_busy h.noReset hb (decode_pending_waits h)) (ih ?_ rfl)
    exact { h with noReset := noReset_tail h.noReset, core := hrest }

theorem step_of_runs (h : s.Runs (i :: program) Q) (hb : s.core.busy = false) :
    step s = exec i { s with pending := program.map encode, turns := s.turns.tail } := by
  rw [step_of_idle h.noReset hb h.pending, decode_encode]

/-- What is left of the program after a step of the host. -/
theorem runs_tail {t : State} (h : s.Runs (i :: program) Q) (hp : t.pending = program.map encode)
    (ht : t.turns = s.turns.tail) (hP : P t.core) : t.Runs program P where
  noReset := fun x hx => noReset_tail h.noReset x (ht ▸ hx)
  pending := hp
  waits := fun j hj => h.waits j (List.mem_cons_of_mem i hj)
  core := hP

/-- The machine performs the oldest transaction, a write, and lets the engine finish. -/
theorem eventually_of_write (h : s.Runs (i :: program) Q) (hb : s.core.busy = false)
    (hw : ∀ u : State, u.core = s.core → ∃ d, exec i u = writeDone u d ∧ d.Finishes P) :
    s.Eventually (·.Runs program P) := by
  obtain ⟨d, hd, hfin⟩ := hw { s with pending := program.map encode, turns := s.turns.tail } rfl
  exact eventually_of_step ((step_of_runs h hb).trans hd) (eventually_of_finishes (runs_tail h rfl rfl hfin))

end

end Sys2Proof.Machine
end

section
/-! PROOF. The message as blocks (41_padder.md R100, 43_sequencer.md R170): the hash state after a number of blocks, and the
bytes of the padded message. -/

namespace Sys2Proof.Machine

/-! ## The hash state after a number of blocks -/

/-- Block j of `p`. -/
def blockAt (p : List Byte) (j : Nat) : Block := blockOf fun i => p.getD (64 * j + i) 0

/-- The hash state after the first `k` blocks of `p`. -/
def hashAfter (p : List Byte) (k : Nat) : EightWords := ((List.range k).map (blockAt p)).foldl compress IV

@[simp] theorem hashAfter_zero (p : List Byte) : hashAfter p 0 = IV := rfl

theorem hashAfter_succ (p : List Byte) (k : Nat) : hashAfter p (k + 1) = compress (hashAfter p k) (blockAt p k) := by
  simp [hashAfter, List.range_succ]

theorem blockByte_blockAt (p : List Byte) (j : Nat) {i : Nat} (hi : i < 64) :
    blockByte (blockAt p j) i = p.getD (64 * j + i) 0 :=
  blockByte_blockOf _ _ hi

theorem blockAt_append {p : List Byte} (q : List Byte) {j : Nat} (h : 64 * (j + 1) ≤ p.length) :
    blockAt (p ++ q) j = blockAt p j := by
  refine block_ext fun i hi => ?_
  rw [blockByte_blockAt _ _ hi, blockByte_blockAt _ _ hi, List.getD_append _ _ _ _ (by omega)]

/-- What follows a whole number of blocks has no effect on their hash. -/
theorem hashAfter_append {p : List Byte} (q : List Byte) {k : Nat} (h : 64 * k ≤ p.length) :
    hashAfter (p ++ q) k = hashAfter p k := by
  induction k with
  | zero => rw [hashAfter_zero, hashAfter_zero]
  | succ k ih => rw [hashAfter_succ, hashAfter_succ, ih (by omega), blockAt_append q h]

theorem digest_eq {m : List Byte} (h : m.length < 2 ^ 61) :
    digest m = some (serialize (hashAfter (paddedBytes m) ((paddedBytes m).length / 64))) := by
  rw [digest, pad, if_neg (by omega)]
  rfl

/-! ## The bytes of the padded message -/

theorem length_paddedBytes_eq (m : List Byte) : (paddedBytes m).length = 64 * ((m.length + 8) / 64 + 1) := by
  simp only [paddedBytes, zeroFill, List.length_append, List.length_replicate, List.length_singleton, length_be64Bytes]
  omega

/-- The message, 0x80, zeros, and the length in the last 8 bytes (41_padder.md R101). -/
theorem getD_paddedBytes (m : List Byte) {i : Nat} (hi : i < (paddedBytes m).length) :
    (paddedBytes m).getD i 0 =
      if (paddedBytes m).length ≤ i + 8 then be64 (BitVec.ofNat 64 (8 * m.length)) (i + 8 - (paddedBytes m).length)
      else if m.length < i then 0
      else if i = m.length then 0x80 else m.getD i 0 := by
  obtain ⟨z, hp⟩ := exists_paddedBytes_eq m
  have hlen : (paddedBytes m).length = m.length + 1 + z + 8 := by
    rw [hp]
    simp only [List.length_append, List.length_cons, List.length_replicate, length_be64Bytes]
    omega
  rw [hlen] at hi ⊢
  rw [hp]
  rcases Nat.lt_trichotomy i m.length with hlt | rfl | hgt
  · rw [List.getD_append _ _ _ _ hlt, if_neg (by omega), if_neg (by omega), if_neg (by omega)]
  · rw [List.getD_append_right _ _ _ _ le_rfl, if_neg (by omega), if_neg (by omega), if_pos rfl, Nat.sub_self]
    rfl
  obtain ⟨j, rfl⟩ : ∃ j, i = m.length + (j + 1) := ⟨i - m.length - 1, by omega⟩
  rw [List.getD_append_right _ _ _ _ (by omega), Nat.add_sub_cancel_left, List.getD_cons_succ]
  by_cases hj : j < z
  · rw [List.getD_append _ _ _ _ (by simpa using hj), if_neg (by omega), if_pos (by omega)]
    simp [hj]
  · have hk : j - z < 8 := by omega
    rw [List.getD_append_right _ _ _ _ (by simpa using Nat.le_of_not_lt hj), List.length_replicate, if_pos (by omega)]
    have hindex : m.length + (j + 1) + 8 - (m.length + 1 + z + 8) = j - z := by omega
    rw [hindex]
    simp [be64Bytes, hk]

end Sys2Proof.Machine
end

section
/-! PROOF. A computation on the core (43_sequencer.md R182): what INIT, the absorbed bytes and FINALIZE leave once the engine
has finished. -/

namespace Sys2Proof.Machine

/-! ## The engine on one block -/

/-- The core as SequencerNext finds it after a block: the update step has put `h` in H and 0 in BUF_CNT, and `wv` is what the
rounds left (42_compressor.md R152). -/
def blockDone (c : CoreState) (wv h : EightWords) : CoreState := { inBlock c wv 63 .update with h := h, bufCnt := 0 }

theorem updateStep_inBlock (c : CoreState) (v : EightWords) :
    updateStep (inBlock c v 63 .update) = sequencerNext (blockDone c v (addWords c.h v)) := rfl

theorem engineStep_iterate_startBlock_65 (c : CoreState) :
    engineStep^[65] (startBlock c) = sequencerNext (blockDone c (rounds c.buf c.h 64) (compress c.h c.buf)) := by
  rw [Function.iterate_succ_apply', engineStep_iterate_startBlock_64, engineStep_update rfl, updateStep_inBlock, compress]

theorem busy_iterate_startBlock (c : CoreState) {n : Nat} (hn : n < 65) :
    (engineStep^[n] (startBlock c)).busy = true := by
  obtain hn | rfl : n < 64 ∨ n = 64 := by omega
  · rw [engineStep_iterate_startBlock c hn]; rfl
  · rw [engineStep_iterate_startBlock_64]; rfl

/-- The engine works on the block in BUF and leaves to SequencerNext what comes after it. -/
theorem finishes_startBlock {P : CoreState → Prop} {c : CoreState} {h : EightWords} (hh : compress c.h c.buf = h)
    (next : ∀ wv, (sequencerNext (blockDone c wv h)).Finishes P) : (startBlock c).Finishes P := by
  refine finishes_of_iterate (n := 65) (fun _ => busy_iterate_startBlock c) ?_
  rw [engineStep_iterate_startBlock_65, hh]
  exact next _

/-! ## While a message is absorbed -/

/-- The idle core once INIT and then the bytes of `m` have been accepted and the engine has finished: the whole blocks of
`m` are in H and the rest is in BUF (41_padder.md R104, 43_sequencer.md R180). -/
structure CoreState.Absorbed (m : List Byte) (c : CoreState) : Prop where
  idle : c.busy = false
  mode : c.mode = .empty ∨ c.mode = .absorbing
  fin : c.fin = false
  errLen : c.errLen = false
  errCmd : c.errCmd = false
  length : c.bitlen.toNat = 8 * m.length
  count : c.bufCnt.toNat = m.length % 64
  bytes : ∀ i < m.length % 64, blockByte c.buf i = m.getD (64 * (m.length / 64) + i) 0
  hash : c.h = hashAfter m (m.length / 64)

theorem initCore_absorbed {c : CoreState} (hb : c.busy = false) : (initCore c).Absorbed [] where
  idle := hb
  mode := .inl rfl
  fin := rfl
  errLen := rfl
  errCmd := rfl
  length := rfl
  count := rfl
  bytes i hi := absurd hi (Nat.not_lt_zero i)
  hash := rfl

/-- The byte that fills BUF starts the engine. -/
theorem absorbByte_of_full (b : Byte) {c : CoreState} (hn : c.bufCnt.toNat = 63) :
    startBlock (absorbByte b c) = absorbByte b c := by
  have full : c.bufCnt + 1 = 64 := (bufCnt_add_eq_64_iff hn.le (by decide)).mpr hn
  rw [absorbByte_eq, if_pos full, if_pos full, if_pos full]
  rfl

section
variable {m : List Byte} {b : Byte} {c : CoreState}

/-- BUF after one more byte. -/
theorem blockByte_absorbByte (h : c.Absorbed m) {i : Nat} (hi : i ≤ m.length % 64) :
    blockByte (absorbByte b c).buf i = (m ++ [b]).getD (64 * (m.length / 64) + i) 0 := by
  rw [absorbByte_buf, blockByte_putByte _ _ _ _ (by omega), h.count]
  obtain hlt | rfl := Nat.lt_or_eq_of_le hi
  · rw [if_neg hlt.ne, h.bytes i hlt, List.getD_append _ _ _ _ (by omega)]
  · rw [if_pos rfl, List.getD_append_right _ _ _ _ (by omega), Nat.div_add_mod, Nat.sub_self]
    rfl

theorem toNat_absorbByte_bitlen_of_absorbed (h : c.Absorbed m) (hl : m.length + 1 < 2 ^ 61) :
    (absorbByte b c).bitlen.toNat = 8 * (m ++ [b]).length := by
  have hlength := h.length
  rw [toNat_absorbByte_bitlen (by omega), List.length_append, List.length_singleton]
  omega

/-- A byte that leaves room in BUF. -/
theorem absorbByte_absorbed (h : c.Absorbed m) (hl : m.length + 1 < 2 ^ 61) (hn : m.length % 64 < 63) :
    (absorbByte b c).Absorbed (m ++ [b]) := by
  have hcount := h.count
  have hdiv : (m ++ [b]).length / 64 = m.length / 64 := by rw [List.length_append, List.length_singleton]; omega
  have hmod : (m ++ [b]).length % 64 = m.length % 64 + 1 := by rw [List.length_append, List.length_singleton]; omega
  exact {
    idle := absorbByte_idle h.idle (by omega)
    mode := .inr (absorbByte_mode b c)
    fin := (absorbByte_fin b c).trans h.fin
    errLen := (absorbByte_errLen b c).trans h.errLen
    errCmd := (absorbByte_errCmd b c).trans h.errCmd
    length := toNat_absorbByte_bitlen_of_absorbed h hl
    count := by rw [toNat_absorbByte_bufCnt (by omega), hcount, hmod]
    bytes := fun i hi => by rw [hdiv]; exact blockByte_absorbByte h (by omega)
    hash := by rw [absorbByte_h, h.hash, hdiv, hashAfter_append _ (by omega)] }

/-- The byte that fills BUF, once the engine has finished the block. -/
theorem absorbByte_finishes_of_full (h : c.Absorbed m) (hl : m.length + 1 < 2 ^ 61) (hn : m.length % 64 = 63) :
    (absorbByte b c).Finishes (·.Absorbed (m ++ [b])) := by
  have hdiv : (m ++ [b]).length / 64 = m.length / 64 + 1 := by rw [List.length_append, List.length_singleton]; omega
  have hmod : (m ++ [b]).length % 64 = 0 := by rw [List.length_append, List.length_singleton]; omega
  have hblock : (absorbByte b c).buf = blockAt (m ++ [b]) (m.length / 64) := by
    refine block_ext fun i hi => ?_
    rw [blockByte_absorbByte h (by omega), blockByte_blockAt _ _ hi]
  have hhash : compress (absorbByte b c).h (absorbByte b c).buf = hashAfter (m ++ [b]) ((m ++ [b]).length / 64) := by
    rw [absorbByte_h, h.hash, hblock, hdiv, hashAfter_succ, hashAfter_append _ (by omega)]
  have hfin : (absorbByte b c).fin = false := (absorbByte_fin b c).trans h.fin
  rw [← absorbByte_of_full b (h.count.trans hn)]
  refine finishes_startBlock hhash fun wv => .now ?_
  rw [sequencerNext_data_block (c := blockDone _ wv _) hfin]
  exact {
    idle := rfl
    mode := .inr (absorbByte_mode b c)
    fin := hfin
    errLen := (absorbByte_errLen b c).trans h.errLen
    errCmd := (absorbByte_errCmd b c).trans h.errCmd
    length := toNat_absorbByte_bitlen_of_absorbed h hl
    count := hmod.symm
    bytes := fun i hi => absurd hi (by omega)
    hash := rfl }

theorem absorbByte_finishes (h : c.Absorbed m) (hl : m.length + 1 < 2 ^ 61) :
    (absorbByte b c).Finishes (·.Absorbed (m ++ [b])) := by
  obtain hn | hn : m.length % 64 < 63 ∨ m.length % 64 = 63 := by omega
  · exact .now (absorbByte_absorbed h hl hn)
  · exact absorbByte_finishes_of_full h hl hn

/-- Of the four bytes of a DATA_WORD at an aligned count only the fourth can fill BUF (41_padder.md R106). -/
theorem absorbWord_finishes (w : Word) (h : c.Absorbed m) (hl : m.length + 4 < 2 ^ 61) (ha : m.length % 4 = 0) :
    (absorbWord w c).Finishes (·.Absorbed (m ++ [dataWordB0 w, dataWordB1 w, dataWordB2 w, dataWordB3 w])) := by
  have h1 := absorbByte_absorbed (b := dataWordB0 w) h (by omega) (by omega)
  have l1 : (m ++ [dataWordB0 w]).length = m.length + 1 := List.length_append
  have h2 := absorbByte_absorbed (b := dataWordB1 w) h1 (by omega) (by omega)
  have l2 : (m ++ [dataWordB0 w] ++ [dataWordB1 w]).length = m.length + 2 := by simp
  have h3 := absorbByte_absorbed (b := dataWordB2 w) h2 (by omega) (by omega)
  have l3 : (m ++ [dataWordB0 w] ++ [dataWordB1 w] ++ [dataWordB2 w]).length = m.length + 3 := by simp
  have h4 := absorbByte_finishes (b := dataWordB3 w) h3 (by omega)
  simpa [absorbWord] using h4

end

/-! ## The end of the computation -/

/-- The computation on `m` has ended in FINALIZED without an error, with the hash of the padded message in H. -/
structure CoreState.Hashed (m : List Byte) (c : CoreState) : Prop where
  idle : c.busy = false
  mode : c.mode = .finalized
  errLen : c.errLen = false
  errCmd : c.errCmd = false
  hash : c.h = hashAfter (paddedBytes m) ((paddedBytes m).length / 64)

theorem startBlock_finalizeTail (c : CoreState) : startBlock (finalizeTail c) = finalizeTail c := by
  unfold finalizeTail
  rfl

section
variable {m : List Byte} {c : CoreState}

theorem bitlen_of_absorbed (h : c.Absorbed m) : c.bitlen = BitVec.ofNat 64 (8 * m.length) := by
  rw [← h.length, BitVec.ofNat_toNat, BitVec.setWidth_eq]

/-- H before the tail. -/
theorem hash_of_absorbed (h : c.Absorbed m) : c.h = hashAfter (paddedBytes m) (m.length / 64) := by
  obtain ⟨z, hp⟩ := exists_paddedBytes_eq m
  rw [h.hash, hp, hashAfter_append _ (by omega)]

/-- FINALIZE's block is the one of the padded message that follows the whole blocks of `m` (41_padder.md R110). -/
theorem finalizeTail_buf (h : c.Absorbed m) : (finalizeTail c).buf = blockAt (paddedBytes m) (m.length / 64) := by
  have hlen := length_paddedBytes_eq m
  refine block_ext fun i hi => ?_
  have hlength : (paddedBytes m).length ≤ 64 * (m.length / 64) + i + 8 ↔ 56 ≤ i ∧ m.length % 64 ≤ 55 := by omega
  have hzero : m.length < 64 * (m.length / 64) + i ↔ m.length % 64 < i := by omega
  have hone : 64 * (m.length / 64) + i = m.length ↔ i = m.length % 64 := by omega
  rw [blockByte_finalizeTail c i hi, blockByte_blockAt _ _ hi, getD_paddedBytes m (by omega), h.count,
    bitlen_of_absorbed h]
  simp only [hlength, hzero, hone]
  split_ifs with h1 h2 h3
  · have hk : 64 * (m.length / 64) + i + 8 - (paddedBytes m).length = i - 56 := by omega
    rw [hk]
  · rfl
  · rfl
  · exact h.bytes i (by omega)

/-- A second block is due where the length field does not fit behind the message (41_padder.md R111). -/
theorem padBlock2_buf {d : CoreState} (hd : d.bitlen = BitVec.ofNat 64 (8 * m.length)) (hn : 56 ≤ m.length % 64) :
    (padBlock2 d).buf = blockAt (paddedBytes m) (m.length / 64 + 1) := by
  have hlen := length_paddedBytes_eq m
  refine block_ext fun i hi => ?_
  have hlength : (paddedBytes m).length ≤ 64 * (m.length / 64 + 1) + i + 8 ↔ 56 ≤ i := by omega
  have hzero : m.length < 64 * (m.length / 64 + 1) + i := by omega
  have hk : 64 * (m.length / 64 + 1) + i + 8 - (paddedBytes m).length = i - 56 := by omega
  rw [blockByte_padBlock2 d i hi, blockByte_blockAt _ _ hi, getD_paddedBytes m (by omega), if_pos hzero, hk, hd]
  simp only [hlength]

/-- The last block of the computation. -/
theorem finishes_last_block {d : CoreState} (hstart : startBlock d = d) (hfin : d.fin = true) (hpend2 : d.pend2 = false)
    (herrLen : d.errLen = false) (herrCmd : d.errCmd = false)
    (hhash : compress d.h d.buf = hashAfter (paddedBytes m) ((paddedBytes m).length / 64)) :
    d.Finishes (·.Hashed m) := by
  rw [← hstart]
  refine finishes_startBlock hhash fun wv => .now ?_
  rw [sequencerNext_finalized (c := blockDone d wv _) hfin hpend2]
  exact ⟨rfl, rfl, herrLen, herrCmd, rfl⟩

/-- FINALIZE, once the engine has finished its one block or its two. -/
theorem finalizeTail_finishes (h : c.Absorbed m) : (finalizeTail c).Finishes (·.Hashed m) := by
  have hlen := length_paddedBytes_eq m
  have hfirst : compress (finalizeTail c).h (finalizeTail c).buf = hashAfter (paddedBytes m) (m.length / 64 + 1) := by
    rw [finalizeTail_h, hash_of_absorbed h, finalizeTail_buf h, hashAfter_succ]
  have herrLen : (finalizeTail c).errLen = false := (finalizeTail_errLen c).trans h.errLen
  have herrCmd : (finalizeTail c).errCmd = false := (finalizeTail_errCmd c).trans h.errCmd
  obtain hn | hn : m.length % 64 ≤ 55 ∨ 56 ≤ m.length % 64 := by omega
  · have hone : (paddedBytes m).length / 64 = m.length / 64 + 1 := by omega
    have hpend2 : (finalizeTail c).pend2 = false := by
      rw [finalizeTail_pend2, h.count]
      exact decide_eq_false (by omega)
    exact finishes_last_block (startBlock_finalizeTail c) (finalizeTail_fin c) hpend2 herrLen herrCmd
      (hone ▸ hfirst)
  · have htwo : (paddedBytes m).length / 64 = m.length / 64 + 1 + 1 := by omega
    have hpend2 : (finalizeTail c).pend2 = true := by
      rw [finalizeTail_pend2, h.count]
      exact decide_eq_true hn
    rw [← startBlock_finalizeTail]
    refine finishes_startBlock hfirst fun wv => ?_
    rw [sequencerNext_second_block (c := blockDone (finalizeTail c) wv _) (finalizeTail_fin c) hpend2]
    refine finishes_last_block rfl (finalizeTail_fin c) rfl herrLen herrCmd ?_
    have hbitlen : (finalizeTail c).bitlen = BitVec.ofNat 64 (8 * m.length) :=
      (finalizeTail_bitlen c).trans (bitlen_of_absorbed h)
    rw [padBlock2_buf (d := blockDone (finalizeTail c) wv _) hbitlen hn, htwo, hashAfter_succ _ (m.length / 64 + 1)]
    rfl

end

end Sys2Proof.Machine
end

section
/-! PROOF. The one-shot contract (43_sequencer.md R186), transaction by transaction. -/

namespace Sys2Proof.Machine

/-! ## The transactions of the program -/

section
variable {m : List Byte} {program : List Instr} {s : State}

theorem exec_wrCtrlInit_idle (ign : BitVec 28) (hb : s.core.busy = false) :
    exec (.wrCtrlInit ign) s = writeDone s (initCore s.core) := holdWhileBusy_idle hb _

theorem exec_rdDigest_idle (i : BitVec 3) (w : Word) (hb : s.core.busy = false) :
    exec (.rdDigest i w) s = readReturns s (wordAt s.core.h i.toNat) := holdWhileBusy_idle hb _

theorem bufferHasRoom_of_absorbed {c : CoreState} (h : c.Absorbed m) : bufferHasRoom c = true := by
  have hcount := h.count
  exact (bufferHasRoom_iff c).mpr (by omega)

theorem lengthWouldOverflow_of_absorbed {c : CoreState} (h : c.Absorbed m) {k : Nat} (hl : m.length + k < 2 ^ 61) :
    ¬lengthWouldOverflow c (8 * k) = true := by
  have hlength := h.length
  rw [lengthWouldOverflow_iff]
  omega

theorem exec_wrDataByte_absorbed (w : Word) (h : s.core.Absorbed m) (hl : m.length + 1 < 2 ^ 61) :
    exec (.wrDataByte w) s = writeDone s (absorbByte (dataByteOperand w) s.core) := by
  rw [exec_wrDataByte, whileComputing_passed h.idle h.mode, if_neg (lengthWouldOverflow_of_absorbed h hl),
    if_pos (bufferHasRoom_of_absorbed h)]

theorem exec_wrDataWord_absorbed (w : Word) (h : s.core.Absorbed m) (hl : m.length + 4 < 2 ^ 61)
    (ha : m.length % 4 = 0) : exec (.wrDataWord w) s = writeDone s (absorbWord w s.core) := by
  have aligned : ¬dataWordMisaligned s.core = true := by
    have hcount := h.count
    rw [dataWordMisaligned_iff]
    omega
  rw [exec_wrDataWord, whileComputing_passed h.idle h.mode, if_neg aligned, if_neg (lengthWouldOverflow_of_absorbed h hl),
    if_pos (bufferHasRoom_of_absorbed h)]

theorem exec_wrCtrlFinalize_absorbed (ign : BitVec 28) (h : s.core.Absorbed m) :
    exec (.wrCtrlFinalize ign) s = writeDone s (finalizeTail s.core) := by
  rw [exec_wrCtrlFinalize, whileComputing_passed h.idle h.mode, if_pos (bufferHasRoom_of_absorbed h)]

theorem eventually_init {ign : BitVec 28} (h : s.Runs (.wrCtrlInit ign :: program) (·.busy = false)) :
    s.Eventually (·.Runs program (·.Absorbed [])) :=
  eventually_of_write h h.core fun _ hu =>
    ⟨_, exec_wrCtrlInit_idle ign (hu ▸ h.core), .now (initCore_absorbed (hu ▸ h.core))⟩

theorem eventually_dataByte {w : Word} (h : s.Runs (.wrDataByte w :: program) (·.Absorbed m))
    (hl : m.length + 1 < 2 ^ 61) : s.Eventually (·.Runs program (·.Absorbed (m ++ [dataByteOperand w]))) :=
  eventually_of_write h h.core.idle fun _ hu =>
    ⟨_, exec_wrDataByte_absorbed w (hu ▸ h.core) hl, absorbByte_finishes (hu ▸ h.core) hl⟩

theorem eventually_dataWord {w : Word} (h : s.Runs (.wrDataWord w :: program) (·.Absorbed m))
    (hl : m.length + 4 < 2 ^ 61) (ha : m.length % 4 = 0) :
    s.Eventually (·.Runs program (·.Absorbed (m ++ [dataWordB0 w, dataWordB1 w, dataWordB2 w, dataWordB3 w]))) :=
  eventually_of_write h h.core.idle fun _ hu =>
    ⟨_, exec_wrDataWord_absorbed w (hu ▸ h.core) hl ha, absorbWord_finishes w (hu ▸ h.core) hl ha⟩

theorem eventually_finalize {ign : BitVec 28} (h : s.Runs (.wrCtrlFinalize ign :: program) (·.Absorbed m)) :
    s.Eventually (·.Runs program (·.Hashed m)) :=
  eventually_of_write h h.core.idle fun _ hu =>
    ⟨_, exec_wrCtrlFinalize_absorbed ign (hu ▸ h.core), finalizeTail_finishes (hu ▸ h.core)⟩

/-! ## ABSORB -/

theorem dataByteOperand_setWidth (b : Byte) : dataByteOperand (b.setWidth 32) = b := by
  rw [dataByteOperand, BitVec.extractLsb'_setWidth_of_le (by decide), BitVec.extractLsb'_eq_self]

/-- A DATA_WORD made of four bytes delivers them in their order (20_memory.md R53). -/
theorem bytes_be32 (b0 b1 b2 b3 : Byte) :
    [dataWordB0 (be32 b0 b1 b2 b3), dataWordB1 (be32 b0 b1 b2 b3), dataWordB2 (be32 b0 b1 b2 b3),
      dataWordB3 (be32 b0 b1 b2 b3)] = [b0, b1, b2, b3] := by
  have h0 : dataWordB0 (be32 b0 b1 b2 b3) = b0 :=
    (BitVec.extractLsb'_append_eq_of_le (by decide)).trans
      ((BitVec.extractLsb'_append_eq_of_le (by decide)).trans BitVec.extractLsb'_append_eq_left)
  have h1 : dataWordB1 (be32 b0 b1 b2 b3) = b1 :=
    (BitVec.extractLsb'_append_eq_of_le (by decide)).trans
      ((BitVec.extractLsb'_append_eq_of_le (by decide)).trans BitVec.extractLsb'_append_eq_right)
  have h2 : dataWordB2 (be32 b0 b1 b2 b3) = b2 :=
    (BitVec.extractLsb'_append_eq_of_le (by decide)).trans BitVec.extractLsb'_append_eq_right
  have h3 : dataWordB3 (be32 b0 b1 b2 b3) = b3 := BitVec.extractLsb'_append_eq_right
  rw [h0, h1, h2, h3]

theorem eventually_byte {b : Byte} (h : s.Runs (.wrDataByte (b.setWidth 32) :: program) (·.Absorbed m))
    (hl : m.length + 1 < 2 ^ 61) : s.Eventually (·.Runs program (·.Absorbed (m ++ [b]))) := by
  simpa only [dataByteOperand_setWidth] using eventually_dataByte h hl

theorem eventually_word {b0 b1 b2 b3 : Byte} (h : s.Runs (.wrDataWord (be32 b0 b1 b2 b3) :: program) (·.Absorbed m))
    (hl : m.length + 4 < 2 ^ 61) (ha : m.length % 4 = 0) :
    s.Eventually (·.Runs program (·.Absorbed (m ++ [b0, b1, b2, b3]))) := by
  simpa only [bytes_be32] using eventually_dataWord h hl ha

/-- Fewer than four bytes remain. -/
theorem pseudoAbsorb_short (k : Nat) (b : Byte) {rest : List Byte}
    (h : ∀ b1 b2 b3 rest', rest = b1 :: b2 :: b3 :: rest' → False) :
    pseudoAbsorb k (b :: rest) = .wrDataByte (b.setWidth 32) :: pseudoAbsorb (k + 1) rest := by
  rw [pseudoAbsorb]
  exact h

/-- The writes of an ABSORB, in the cases in which the assembler chooses between DATA_WORD and DATA_BYTE
(30_encoding.md R80): its count is the length of what was absorbed. -/
theorem eventually_absorb (k : Nat) (bs : List Byte) (hk : k = m.length) (hl : m.length + bs.length < 2 ^ 61)
    (h : s.Runs (pseudoAbsorb k bs ++ program) (·.Absorbed m)) :
    s.Eventually (·.Runs program (·.Absorbed (m ++ bs))) := by
  induction k, bs using pseudoAbsorb.induct generalizing m s with
  | case1 k =>
    rw [List.append_nil]
    exact eventually_now h
  | case2 k b0 b1 b2 b3 rest ha ih =>
    rw [List.length_cons, List.length_cons, List.length_cons, List.length_cons] at hl
    rw [pseudoAbsorb, if_pos ha] at h
    refine eventually_trans (eventually_word h (by omega) (hk ▸ ha)) fun t ht => ?_
    simpa using ih (by simp [hk]) (by simp only [List.length_append, List.length_cons, List.length_nil]; omega) ht
  | case3 k b0 b1 b2 b3 rest ha ih =>
    rw [List.length_cons] at hl
    rw [pseudoAbsorb, if_neg ha] at h
    refine eventually_trans (eventually_byte h (by omega)) fun t ht => ?_
    simpa using ih (by simp [hk]) (by simp only [List.length_append, List.length_singleton]; omega) ht
  | case4 k b0 rest hshort ih =>
    rw [List.length_cons] at hl
    rw [pseudoAbsorb_short k b0 hshort] at h
    refine eventually_trans (eventually_byte h (by omega)) fun t ht => ?_
    simpa using ih (by simp [hk]) (by simp only [List.length_append, List.length_singleton]; omega) ht

theorem waits_pseudoAbsorb (k : Nat) (bs : List Byte) : ∀ i ∈ pseudoAbsorb k bs, neverHeld i = false := by
  induction k, bs using pseudoAbsorb.induct with
  | case1 k => simp [pseudoAbsorb]
  | case2 k b0 b1 b2 b3 rest ha ih => simpa [pseudoAbsorb, ha, neverHeld] using ih
  | case3 k b0 b1 b2 b3 rest ha ih => simpa [pseudoAbsorb, ha, neverHeld] using ih
  | case4 k b0 rest hshort ih => simpa [pseudoAbsorb_short k b0 hshort, neverHeld] using ih

/-! ## RDDIGEST -/

/-- The reply to RD DIGESTi. -/
def digestReply (h : EightWords) (i : BitVec 3) : Reply := .data (wordAt h i.toNat)

theorem eventually_rdDigest {i : BitVec 3} {P : CoreState → Prop} (h : s.Runs (.rdDigest i 0 :: program) P)
    (hb : s.core.busy = false) : s.Eventually fun t =>
      t.Runs program P ∧ t.core = s.core ∧ t.replies = digestReply s.core.h i :: s.replies := by
  have hstep := (step_of_runs h hb).trans (exec_rdDigest_idle i 0 hb)
  exact eventually_of_step hstep (eventually_now ⟨runs_tail h rfl rfl h.core, rfl, rfl⟩)

/-- Reads of DIGEST in any order, which leave the core alone. -/
theorem eventually_rdDigests {regs : List (BitVec 3)} {P : CoreState → Prop}
    (h : s.Runs (regs.map fun i => .rdDigest i 0) P) (hb : s.core.busy = false) :
    s.Eventually fun t => t.core = s.core ∧ t.pending = [] ∧
      t.replies = (regs.map (digestReply s.core.h)).reverse ++ s.replies := by
  induction regs generalizing s with
  | nil => exact eventually_now ⟨rfl, h.pending, rfl⟩
  | cons i regs ih =>
    refine eventually_trans (eventually_rdDigest h hb) fun t ⟨ht, hcore, hreplies⟩ => ?_
    simpa [hcore, hreplies] using ih ht (hcore ▸ hb)

theorem pseudoRdDigest_eq : pseudoRdDigest = ((List.range 8).map (BitVec.ofNat 3)).map fun i => .rdDigest i 0 := rfl

theorem digestReplies_eq (h : EightWords) :
    ((List.range 8).map (BitVec.ofNat 3)).map (digestReply h) = ((List.range 8).map (wordAt h)).map Reply.data := rfl

theorem serialize_eq (h : EightWords) : serialize h = ((List.range 8).map (wordAt h)).flatMap beBytes32 :=
  (List.flatMap_map ..).symm

/-! ## The program -/

theorem waits_oneShotProgram (m : List Byte) : ∀ i ∈ oneShotProgram m, neverHeld i = false := by
  have others : ∀ i ∈ pseudoInit ++ pseudoFinalize ++ pseudoRdDigest, neverHeld i = false := by decide
  simp only [oneShotProgram, List.forall_mem_append] at others ⊢
  obtain ⟨⟨hinit, hfinalize⟩, hread⟩ := others
  exact ⟨⟨⟨hinit, waits_pseudoAbsorb 0 m⟩, hfinalize⟩, hread⟩

/-- INIT, ABSORB and FINALIZE, with RDDIGEST to come. -/
theorem eventually_hashed (hl : m.length < 2 ^ 61) (h : s.Runs (oneShotProgram m) (·.busy = false)) :
    s.Eventually (·.Runs pseudoRdDigest (·.Hashed m)) := by
  simp only [oneShotProgram, List.append_assoc] at h
  refine eventually_trans (eventually_init h) fun t ht => ?_
  refine eventually_trans (eventually_absorb 0 m rfl (by simpa using hl) ht) fun u hu => ?_
  exact eventually_finalize hu

/-- The whole program: its newest replies are the words of H, DIGEST0's the oldest of the eight. -/
theorem eventually_oneShot (hl : m.length < 2 ^ 61) (h : s.Runs (oneShotProgram m) (·.busy = false)) :
    s.Eventually fun t => t.core.Hashed m ∧ t.pending = [] ∧
      ∃ older, t.replies = (((List.range 8).map (wordAt t.core.h)).map Reply.data).reverse ++ older := by
  refine eventually_trans (eventually_hashed hl h) fun t ht => ?_
  have hreads := eventually_rdDigests (pseudoRdDigest_eq ▸ ht) ht.core.idle
  refine eventually_trans hreads fun u ⟨hcore, hpending, hreplies⟩ => ?_
  refine eventually_now ⟨hcore ▸ ht.core, hpending, t.replies, ?_⟩
  rw [hreplies, hcore, digestReplies_eq]

end

/-- Settles O59: the program's transactions all wait for the engine, so each is performed on an idle core, and the core
follows the message block by block. -/
theorem oneShotContract : Obligations.OneShotContract := by
  intro s m hb hr hl hp
  have hl : m.length < 2 ^ 61 := by omega
  obtain ⟨n, t, hn, hc, hpending, older, hreplies⟩ := eventually_oneShot hl ⟨hr, hp, waits_oneShotProgram m, hb⟩
  refine ⟨n, t, hn, ⟨hc.idle, hpending⟩, hc.mode, hc.errLen, hc.errCmd, (List.range 8).map (wordAt t.core.h), ?_, ?_⟩
  · rw [hreplies]
    exact List.take_left' (by simp)
  · rw [digest_eq hl, ← serialize_eq, hc.hash]

end Sys2Proof.Machine
end

section
/-! PROOF. Bus errors (44_register_access.md R209): the words that are one, by their fields, and that they leave everything
but the replies as it is. -/

namespace Sys2Proof

/-- The access is misaligned exactly when it is at an odd offset or at one that is 2 mod 4. -/
theorem toNat_offset_mod_four_ne_zero_iff : ∀ o : BitVec 6,
    o.toNat % 4 ≠ 0 ↔ o.extractLsb' 0 1 = 1 ∨ o.extractLsb' 0 2 = 2 := by decide

/-- A bus error's word shows it: the encoder gives it SZ4 = 0 or a misaligned OFFSET. -/
theorem t40_fields_of_busError {i : Instr} (hi : (∃ rw o w, i = .busErrSize rw o w) ∨
    (∃ rw o w, i = .busErrAlignOdd rw o w) ∨ (∃ rw o w, i = .busErrAlign2 rw o w)) :
    t40Sz4 (encode i) = 0 ∨ (t40Offset (encode i)).toNat % 4 ≠ 0 := by
  obtain ⟨rw, o, w, rfl⟩ | ⟨rw, o, w, rfl⟩ | ⟨rw, o, w, rfl⟩ := hi
  · exact .inl (t40Sz4_t40 ..)
  · have hodd : ∀ o : BitVec 5, (o ++ 1#1 : BitVec 6).toNat % 4 ≠ 0 := by decide
    exact .inr (by simpa only [encode, t40Offset_t40] using hodd o)
  · have htwo : ∀ o : BitVec 4, (o ++ 2#2 : BitVec 6).toNat % 4 ≠ 0 := by decide
    exact .inr (by simpa only [encode, t40Offset_t40] using htwo o)

/-- The decoder tests SZ4, OFFSET[0] and OFFSET[1:0] before anything else. -/
theorem decode_busError {t : BitVec 40} (ht : t40Sz4 t = 0 ∨ (t40Offset t).toNat % 4 ≠ 0) :
    (∃ rw o w, decode t = .busErrSize rw o w) ∨ (∃ rw o w, decode t = .busErrAlignOdd rw o w) ∨
      (∃ rw o w, decode t = .busErrAlign2 rw o w) := by
  rw [toNat_offset_mod_four_ne_zero_iff] at ht
  by_cases hsize : t40Sz4 t = 0
  · exact .inl ⟨_, _, _, if_pos hsize⟩
  by_cases hodd : (t40Offset t).extractLsb' 0 1 = 1
  · exact .inr (.inl ⟨_, _, _, (if_neg hsize).trans (if_pos hodd)⟩)
  have htwo := (ht.resolve_left hsize).resolve_left hodd
  exact .inr (.inr ⟨_, _, _, (if_neg hsize).trans ((if_neg hodd).trans (if_pos htwo))⟩)

theorem decode_busError_iff (t : BitVec 40) : (t40Sz4 t = 0 ∨ (t40Offset t).toNat % 4 ≠ 0) ↔
    (∃ rw o w, decode t = .busErrSize rw o w) ∨ (∃ rw o w, decode t = .busErrAlignOdd rw o w) ∨
      (∃ rw o w, decode t = .busErrAlign2 rw o w) :=
  ⟨decode_busError, fun h => encode_decode t ▸ t40_fields_of_busError h⟩

end Sys2Proof

namespace Sys2Proof.Machine

/-- Settles O11: the fields decide, since encoding the decoded word gives it back; the rule of all three is the bare reply,
outside any hold. -/
theorem busErrorsChangeNothing : Obligations.BusErrorsChangeNothing :=
  ⟨decode_busError_iff, fun _ _ _ _ => rfl, fun _ _ _ _ => rfl, fun _ _ _ _ => rfl⟩

end Sys2Proof.Machine
end

section
/-! PROOF. Register access (44_register_access.md R201 to R207): the values that reads return, and the accesses with no
effect. -/

namespace Sys2Proof.Machine

/-! ## The hold and the completion -/

/-- `if BUSY = 1: hold`, then the rest of the rule, by the value of BUSY. -/
theorem held_or_completes {i : Instr} {s : State} {rest : Result} (h : exec i s = holdWhileBusy s rest) :
    (s.core.busy = true → exec i s = .next s) ∧ (s.core.busy = false → exec i s = rest) :=
  ⟨fun hb => h.trans (holdWhileBusy_busy hb rest), fun hb => h.trans (holdWhileBusy_idle hb rest)⟩

/-! ## The values read -/

/-- STATUS from its fields, each shifted to its place (R201). -/
theorem status_eq_or (c : CoreState) : status c =
    c.mode.code.setWidth 32 ||| (BitVec.ofBool c.busy).setWidth 32 <<< 2 |||
      (BitVec.ofBool c.errLen).setWidth 32 <<< 3 ||| (BitVec.ofBool c.errCmd).setWidth 32 <<< 4 |||
      c.ecause.setWidth 32 <<< 5 ||| c.bufCnt.setWidth 32 <<< 8 := by
  rw [← BitVec.setWidth_eq (status c)]
  simp only [status, BitVec.setWidth_append_eq_shiftLeft_setWidth_or, BitVec.shiftLeft_or_distrib, ← BitVec.shiftLeft_add]
  simp only [BitVec.setWidth_zero, BitVec.zero_shiftLeft, BitVec.zero_or]
  ac_rfl

theorem bitlenHi_eq (c : CoreState) : bitlenHi c = BitVec.ofNat 32 (c.bitlen.toNat / 2 ^ 32) := by
  rw [← Nat.shiftRight_eq_div_pow]
  rfl

theorem bitlenLo_eq (c : CoreState) : bitlenLo c = BitVec.ofNat 32 (c.bitlen.toNat % 2 ^ 32) :=
  BitVec.eq_of_toNat_eq (by simp [bitlenLo])

theorem wordAt_eq_getD (v : EightWords) (i : BitVec 3) :
    wordAt v i.toNat = [v.a, v.b, v.c, v.d, v.e, v.f, v.g, v.h].getD i.toNat 0 := by
  have hi : i.toNat < 8 := i.isLt
  interval_cases i.toNat <;> rfl

/-- Settles O12: RD STATUS has no hold, and STATUS is its fields side by side. -/
theorem rdStatusReturnsStatus : Obligations.RdStatusReturnsStatus := by
  intro w s
  rw [← status_eq_or]
  rfl

/-- Settles O13: the hold, and the upper and the lower half of BITLEN as quotient and remainder. -/
theorem rdBitlenReturnsHalves : Obligations.RdBitlenReturnsHalves := by
  intro w s
  rw [← bitlenHi_eq, ← bitlenLo_eq]
  obtain ⟨hiHeld, hiReturns⟩ := held_or_completes (i := .rdBitlenHi w) (s := s) rfl
  obtain ⟨loHeld, loReturns⟩ := held_or_completes (i := .rdBitlenLo w) (s := s) rfl
  exact ⟨fun hb => ⟨hiHeld hb, loHeld hb⟩, fun hb => ⟨hiReturns hb, loReturns hb⟩⟩

/-- Settles O14: no mode is asked for; in EMPTY the invariant says that H is IV. -/
theorem rdDigestReturnsHashWord : Obligations.RdDigestReturnsHashWord := by
  intro i w s
  rw [← wordAt_eq_getD]
  obtain ⟨hheld, hreturns⟩ := held_or_completes (i := .rdDigest i w) (s := s) rfl
  refine ⟨hheld, hreturns, fun hb hinv hempty => ?_⟩
  obtain ⟨hIV, -⟩ := hinv.empty_fresh hempty
  exact hIV ▸ hreturns hb

/-! ## Accesses with no effect -/

theorem exec_of_mem_zeroReads {lo : BitVec 1} {w : Word} {i : Instr}
    (hi : i ∈ [Instr.rdCtrl w, .rdDataWord w, .rdDataByte w, .rdRsv lo w]) (s : State) :
    exec i s = holdWhileBusy s (readReturns s 0) := by
  simp only [List.mem_cons, List.not_mem_nil, or_false] at hi
  obtain rfl | rfl | rfl | rfl := hi <;> rfl

theorem exec_of_mem_ignoredWrites {lo : BitVec 1} {n : BitVec 3} {w : Word} {i : Instr}
    (hi : i ∈ [Instr.wrStatus w, .wrBitlen lo w, .wrRsv lo w, .wrDigest n w]) (s : State) :
    exec i s = holdWhileBusy s (writeDone s s.core) := by
  simp only [List.mem_cons, List.not_mem_nil, or_false] at hi
  obtain rfl | rfl | rfl | rfl := hi <;> rfl

/-- Settles O15: the four reads share one rule. -/
theorem rdWriteOnlyAndReservedReturnZero : Obligations.RdWriteOnlyAndReservedReturnZero :=
  fun _ _ s _ hi => held_or_completes (exec_of_mem_zeroReads hi s)

/-- Settles O16: the four writes share one rule, NOP's. -/
theorem ignoredWritesChangeNothing : Obligations.IgnoredWritesChangeNothing :=
  fun _ _ _ s _ hi => held_or_completes (exec_of_mem_ignoredWrites hi s)

end Sys2Proof.Machine
end

section
/-! PROOF. Exceptions (60_exceptions.md R233 to R236): a transaction that waits for the engine is the hold, then the errors of
`errorConditions` in their order, then its own rule. -/

namespace Sys2Proof.Machine

/-! ## What `reject` records -/

/-- Settles O26: the fields of `reject`, one by one. -/
theorem rejectRecordsFirstCause : Obligations.RejectRecordsFirstCause := reject_eq

/-! ## The checks as a list -/

/-- The first error of the list whose condition applies is rejected; where none applies, `rest` (R234). -/
def rejectFirst (s : State) (rest : Result) : List (Bool × ErrorKind × Cause) → Result
  | [] => rest
  | (applies, kind, cause) :: later =>
    if applies then writeDone s (reject kind cause s.core) else rejectFirst s rest later

theorem rejectFirst_eq_writeDone {s : State} {rest : Result} {kind : ErrorKind} {cause : Cause}
    {errors : List (Bool × ErrorKind × Cause)} (h : (errors.find? (·.1)).map (·.2) = some (kind, cause)) :
    rejectFirst s rest errors = writeDone s (reject kind cause s.core) := by
  induction errors with
  | nil => cases h
  | cons error later ih =>
    obtain ⟨applies, k, e⟩ := error
    cases applies with
    | false => exact ih h
    | true => cases h; rfl

/-- `whileComputing` tests what the first two error conditions of R234 say. -/
theorem whileComputing_rejectFirst (s : State) (rest : Result) (errors : List (Bool × ErrorKind × Cause)) :
    whileComputing s (rejectFirst s rest errors) = holdWhileBusy s (rejectFirst s rest
      ((s.core.mode == .failed, .cmd, .inFailed) :: (s.core.mode == .finalized, .cmd, .afterFinalize) :: errors)) := by
  simp only [whileComputing, rejectFirst, beq_iff_eq]

/-- R234 and R236 in one equation: the hold, the errors in their order, and the rule of the transaction itself. For a
reserved command the one error always applies, so what follows it is never reached. -/
theorem exec_eq_rejectFirst {i : Instr} (hi : neverHeld i = false) (s : State) :
    ∃ rest, exec i s = holdWhileBusy s (rejectFirst s rest (errorConditions i s.core)) := by
  cases i with
  | wrCtrlFinalize => exact ⟨_, whileComputing_rejectFirst s _ []⟩
  | wrDataByte => exact ⟨_, whileComputing_rejectFirst s _ [(lengthWouldOverflow s.core 8, .len, .lengthOverflow)]⟩
  | wrDataWord => exact ⟨_, whileComputing_rejectFirst s _
      [(dataWordMisaligned s.core, .cmd, .dataWordMisaligned), (lengthWouldOverflow s.core 32, .len, .lengthOverflow)]⟩
  | wrCtrlRsv3 | wrCtrlRsv4_7 | wrCtrlRsv8_F => exact ⟨.next s, rfl⟩
  | rdStatus | busErrSize | busErrAlignOdd | busErrAlign2 => cases hi
  | _ => exact ⟨_, rfl⟩

theorem exec_of_held {i : Instr} {s : State} (h : held i s.core = true) : exec i s = .next s := by
  obtain ⟨hb, hi⟩ := (held_eq_true_iff i s.core).mp h
  obtain ⟨rest, hexec⟩ := exec_eq_rejectFirst hi s
  rw [hexec, holdWhileBusy_busy hb]

/-- RD STATUS and the bus errors raise no error of `errorConditions`. -/
theorem neverHeld_of_decidingError {i : Instr} {c : CoreState} {kind : ErrorKind} {cause : Cause}
    (h : decidingError i c = some (kind, cause)) : neverHeld i = false := by
  cases i with
  | rdStatus | busErrSize | busErrAlignOdd | busErrAlign2 => cases h
  | _ => rfl

theorem exec_of_decidingError {i : Instr} {s : State} {kind : ErrorKind} {cause : Cause}
    (hb : s.core.busy = false) (h : decidingError i s.core = some (kind, cause)) :
    exec i s = writeDone s (reject kind cause s.core) := by
  obtain ⟨rest, hexec⟩ := exec_eq_rejectFirst (neverHeld_of_decidingError h) s
  rw [hexec, holdWhileBusy_idle hb, rejectFirst_eq_writeDone h]

/-! ## Where no error applies -/

@[simp] theorem absorbWord_errLen (w : Word) (c : CoreState) : (absorbWord w c).errLen = c.errLen := by
  simp [absorbWord]
@[simp] theorem absorbWord_errCmd (w : Word) (c : CoreState) : (absorbWord w c).errCmd = c.errCmd := by
  simp [absorbWord]
@[simp] theorem absorbWord_ecause (w : Word) (c : CoreState) : (absorbWord w c).ecause = c.ecause := by
  simp [absorbWord]

/-- Of the effects a transaction can have only a rejection and INIT write an error field (R239). -/
theorem coreEffect_keeps_errors {i : Instr} {c d : CoreState} (h : CoreEffect i c d) (hinit : ∀ ign, i ≠ .wrCtrlInit ign)
    (hnone : decidingError i c = none) : d.errLen = c.errLen ∧ d.errCmd = c.errCmd ∧ d.ecause = c.ecause := by
  cases h with
  | same => exact ⟨rfl, rfl, rfl⟩
  | rejected k e idle why => cases hnone.symm.trans why
  | init ign what idle => exact absurd what (hinit ign)
  | byte | word | finalize => simp

/-- Settles O27: a bus error is its bare reply; the hold and the errors are the equation `exec_eq_rejectFirst`; the effects
that remain write no error field. -/
theorem firstConditionDecides : Obligations.FirstConditionDecides := by
  intro i s
  refine ⟨?busError, exec_of_held, fun kind cause => exec_of_decidingError, fun t hinit hnone ht => ?noError⟩
  case busError => rintro (⟨rw, o, w, rfl⟩ | ⟨rw, o, w, rfl⟩ | ⟨rw, o, w, rfl⟩) <;> rfl
  case noError =>
    obtain ⟨-, rfl⟩ | ⟨d, r, heffect, rfl⟩ := exec_cases ht
    · exact ⟨rfl, rfl, rfl⟩
    · exact coreEffect_keeps_errors heffect hinit hnone

/-! ## Rejections are precise -/

/-- `reject` writes only the error fields and MODE (R233, R235). -/
theorem reject_frame (k : ErrorKind) (e : Cause) (c : CoreState) : reject k e c = { c with
    errLen := (reject k e c).errLen, errCmd := (reject k e c).errCmd, ecause := (reject k e c).ecause,
    mode := (reject k e c).mode } := by
  rw [reject_errLen, reject_errCmd, reject_ecause, reject_mode]
  exact reject_eq k e c

theorem reject_mode_ended (k : ErrorKind) (e : Cause) (c : CoreState) :
    (reject k e c).mode ≠ .empty ∧ (reject k e c).mode ≠ .absorbing := by
  obtain h | ⟨h, -⟩ := reject_mode_cases k e c <;> simp [h]

/-- Settles O28: the transaction is one that waits while BUSY = 1; else its core is `reject`'s. -/
theorem rejectionsArePrecise : Obligations.RejectionsArePrecise := by
  intro i s kind cause h
  refine ⟨fun hb => exec_of_held ((held_eq_true_iff _ _).mpr ⟨hb, neverHeld_of_decidingError h⟩), fun hb =>
    ⟨_, exec_of_decidingError hb h, reject_frame kind cause s.core, ?len, ?cmd, reject_ecause_ne_zero kind cause s.core,
      (reject_busy kind cause s.core).trans hb, reject_mode_ended kind cause s.core⟩⟩
  case len | cmd => rintro rfl; simp [reject_errLen, reject_errCmd]

end Sys2Proof.Machine
end

section
/-! PROOF. The round trips of the T40 form, its canonical words, and the operands (30_encoding.md R71, R73, R74). -/

namespace Sys2Proof

open Sys2Proof.Machine

/-- Settles O1: the decoder reads back every transaction, constructor by constructor. -/
theorem decodeOfEncodeIsIdentity : Obligations.DecodeOfEncodeIsIdentity := decode_encode

/-- Settles O2: each branch of the decoder keeps the bits it does not test. -/
theorem encodeOfDecodeIsIdentity : Obligations.EncodeOfDecodeIsIdentity := encode_decode

/-! ## Canonical words (R71) -/

theorem canonical_write {i : Instr} {o : BitVec 6} {w : Word} (hi : encode i = t40Write o w) :
    t40Rw (encode i) = 0 → t40Wdata (encode i) = 0 := by
  rw [hi, t40Write, t40Rw_t40]
  exact fun h => absurd h (by decide)

theorem canonical_iff {i : Instr} {rw sz : BitVec 1} {o : BitVec 6} {w : Word} (hi : encode i = t40 rw sz o w) :
    (t40Rw (encode i) = 0 → t40Wdata (encode i) = 0) ↔ (rw = 0 → w = 0) := by
  rw [hi, t40Rw_t40, t40Wdata_t40]

theorem canonical_read_iff {i : Instr} {o : BitVec 6} {w : Word} (hi : encode i = t40Read o w) :
    (t40Rw (encode i) = 0 → t40Wdata (encode i) = 0) ↔ w = 0 :=
  (canonical_iff hi).trans ⟨fun h => h rfl, fun h _ => h⟩

/-- Settles O4: a write is well-formed whatever WDATA is, a read if WDATA is 0, and a bus error by its RW bit. -/
theorem wellFormedIsCanonicalRead : Obligations.WellFormedIsCanonicalRead := by
  intro i
  cases i with
  | wrCtrlNop | wrCtrlInit | wrCtrlFinalize | wrCtrlRsv3 | wrCtrlRsv4_7 | wrCtrlRsv8_F | wrDataWord | wrDataByte
  | wrStatus | wrBitlen | wrRsv | wrDigest => exact iff_of_true rfl (canonical_write rfl)
  | rdCtrl | rdStatus | rdDataWord | rdDataByte | rdBitlenHi | rdBitlenLo | rdRsv | rdDigest =>
    rw [canonical_read_iff rfl]
    simp [Instr.wf, Instr.readCarriesData]
  | busErrSize | busErrAlignOdd | busErrAlign2 =>
    rw [canonical_iff rfl]
    simp [Instr.wf, Instr.readCarriesData, imp_iff_not_or]

/-! ## Words of the spec -/

/-- Settles O5: thirteen closed words, which the decoder evaluates. -/
theorem specWordsDecode : Obligations.SpecWordsDecode := by
  unfold Obligations.SpecWordsDecode
  decide

/-! ## Operands (R73) -/

/-- The four bytes of a DATA_WORD, put together in the order in which they are absorbed. -/
theorem be32_dataWord (w : Word) : be32 (dataWordB0 w) (dataWordB1 w) (dataWordB2 w) (dataWordB3 w) = w := by
  have h1 : dataWordB0 w ++ dataWordB1 w = w.extractLsb' 16 16 :=
    BitVec.extractLsb'_append_extractLsb'_eq_extractLsb' rfl
  have h2 : w.extractLsb' 16 16 ++ dataWordB2 w = w.extractLsb' 8 24 :=
    BitVec.extractLsb'_append_extractLsb'_eq_extractLsb' rfl
  have h3 : w.extractLsb' 8 24 ++ dataWordB3 w = w.extractLsb' 0 32 :=
    BitVec.extractLsb'_append_extractLsb'_eq_extractLsb' rfl
  rw [be32, h1, h2, h3, BitVec.extractLsb'_eq_self]

theorem toNat_dataByteOperand (w : Word) : (dataByteOperand w).toNat = w.toNat % 256 := by
  rw [dataByteOperand, BitVec.extractLsb'_toNat, Nat.shiftRight_zero]

theorem toNat_digest_offset : ∀ i : BitVec 3, (1#1 ++ i ++ 0#2 : BitVec 6).toNat = 0x20 + 4 * i.toNat := by decide

theorem toNat_bitlen_offset : ∀ lo : BitVec 1, (2#3 ++ lo ++ 0#2 : BitVec 6).toNat = 0x10 + 4 * lo.toNat := by decide

/-- Settles O6: the bytes of WDATA joined again, and OFFSET read off the encoded word. -/
theorem operandsAreAssembled : Obligations.OperandsAreAssembled := by
  refine ⟨be32_dataWord, toNat_dataByteOperand, fun i w => ?_, fun w => ⟨?_, ?_⟩, fun lo w => ?_⟩
  · rw [encode, t40Read, t40Offset_t40, toNat_digest_offset]
  · rw [encode, t40Read, t40Offset_t40]; rfl
  · rw [encode, t40Read, t40Offset_t40]; rfl
  · rw [encode, t40Write, t40Offset_t40, toNat_bitlen_offset]

end Sys2Proof
end

section
/-! PROOF. The step (00_scope.md R14, 60_exceptions.md R236): whose it is, and what the host's step performs. -/

namespace Sys2Proof.Machine

/-! ## The host's step -/

theorem hostEnabled_cons {s : State} {w : BitVec 40} {rest : List (BitVec 40)} (hp : s.pending = w :: rest) :
    hostEnabled s = !held (decode w) s.core := by
  simp [hostEnabled, headHeld, hp]

/-- The host's turn goes to the host whenever its oldest transaction is not held. -/
theorem step_of_host_turn {s : State} {w : BitVec 40} {rest : List (BitVec 40)} {ts : List Turn}
    (hp : s.pending = w :: rest) (ht : s.turns = .host :: ts) (hh : held (decode w) s.core = false) :
    step s = exec (decode w) { s with pending := rest, turns := ts } := by
  have henabled : hostEnabled { s with turns := ts } = true := by
    rw [hostEnabled_cons (s := { s with turns := ts }) hp, hh]
    rfl
  have hturn : step s = hostFirst { s with turns := ts } := by rw [step, takeTurn, ht]
  rw [hturn, hostFirst, if_pos henabled, hostStep_cons (s := { s with turns := ts }) hp]

/-- Settles O7: the host's turn, with its step enabled. -/
theorem stepRunsDecodedTransaction : Obligations.StepRunsDecodedTransaction :=
  fun _ _ _ _ => step_of_host_turn

/-- Settles O8: the word is placed as the oldest pending one, with the host's turn. -/
theorem placedTransactionRunsNext : Obligations.PlacedTransactionRunsNext := by
  intro s w hw hh
  have hword : BitVec.ofNat 40 (w % 2 ^ 40) = BitVec.ofNat 40 w := by rw [Nat.mod_eq_of_lt hw]
  rw [State.withFetchWord, hword]
  exact step_of_host_turn rfl rfl hh

/-! ## Whose step it is -/

/-- No host step while the oldest transaction is held or nothing is pending (R236). -/
theorem hostEnabled_eq_false_of {s : State} (h : headHeld s = true ∨ s.pending = []) : hostEnabled s = false := by
  rcases h with h | h <;> simp [hostEnabled, h]

/-- A turn that is neither the host's nor a reset event asks the engine first. -/
theorem step_of_not_host_turn {s : State} (hr : s.noReset) (ht : s.turns.head? ≠ some .host) :
    step s = engineFirst { s with turns := s.turns.tail } := by
  obtain ⟨core, pending, turns, replies⟩ := s
  cases turns with
  | nil => rfl
  | cons x ts =>
    cases x with
    | engine => rfl
    | host => exact absurd rfl ht
    | reset p wv r b => exact absurd (hr _ (List.mem_cons_self ..)) (by simp [Turn.isAgents])

/-- While BUSY = 1 the step is the engine's unless the host has the turn and a step. -/
theorem step_of_busy_of_no_host {s : State} (hr : s.noReset) (hb : s.core.busy = true)
    (h : headHeld s = true ∨ s.pending = [] ∨ s.turns.head? ≠ some .host) :
    step s = .next { s with core := engineStep s.core, turns := s.turns.tail } := by
  have hengine : engineFirst { s with turns := s.turns.tail } = engineTurn { s with turns := s.turns.tail } :=
    engineFirst_busy hb
  by_cases hd : hostEnabled s = true
  · have ht : s.turns.head? ≠ some .host := by
      rcases h with h | h | h
      · rw [hostEnabled_eq_false_of (.inl h)] at hd; cases hd
      · rw [hostEnabled_eq_false_of (.inr h)] at hd; cases hd
      · exact h
    exact (step_of_not_host_turn hr ht).trans hengine
  · have hhost : hostFirst { s with turns := s.turns.tail } = engineFirst { s with turns := s.turns.tail } := if_neg hd
    rcases step_of_noReset hr with hs | hs
    · exact hs.trans hengine
    · exact hs.trans (hhost.trans hengine)

/-- With no agent enabled only a turn is used up (log 14). -/
theorem step_of_quiet {s : State} (hr : s.noReset) (hb : s.core.busy = false) (hp : s.pending = []) :
    step s = .next { s with turns := s.turns.tail } := by
  have hstay : hostStep { s with turns := s.turns.tail } = .next { s with turns := s.turns.tail } := by
    rw [hostStep]
    simp only [hp]
  rcases step_of_noReset hr with hs | hs
  · exact (hs.trans (engineFirst_idle hb)).trans hstay
  · exact (hs.trans (hostFirst_idle hb)).trans hstay

/-- Settles O9: the three cases of BUSY and of what is pending. -/
theorem stepRunsTheEnabledAgent : Obligations.StepRunsTheEnabledAgent :=
  fun _ hr => ⟨step_of_busy_of_no_host hr, fun hb _ _ => step_of_idle hr hb, step_of_quiet hr⟩

/-! ## The hold -/

/-- Settles O10: such a transaction is one that waits while BUSY = 1. -/
theorem heldTransactionHasNoEffect : Obligations.HeldTransactionHasNoEffect := by
  rintro i s hb ⟨hstatus, hsize, hodd, htwo⟩
  refine exec_of_held ((held_eq_true_iff i s.core).mpr ⟨hb, ?_⟩)
  cases i with
  | rdStatus w => exact absurd rfl (hstatus w)
  | busErrSize rw o w => exact absurd rfl (hsize rw o w)
  | busErrAlignOdd rw o w => exact absurd rfl (hodd rw o w)
  | busErrAlign2 rw o w => exact absurd rfl (htwo rw o w)
  | _ => rfl

end Sys2Proof.Machine
end

section
/-! PROOF. Reset (70_reset_and_hazards.md R260 to R262) and the invariant (10_state.md R45) as statements about the
machine. -/

namespace Sys2Proof.Machine

/-! ## Reset -/

/-- A reset event in every state. -/
theorem step_of_reset_turn {s : State} {p : Bool} {wv : EightWords} {r : BitVec 6} {b : Block} {ts : List Turn}
    (ht : s.turns = .reset p wv r b :: ts) : step s = .next (resetCore
      (if p || headHeld s then loseOutstanding { s with turns := ts } else { s with turns := ts }) wv r b) := by
  rw [step, takeTurn, ht]
  rfl

theorem loseOutstanding_of_cons {s : State} {w : BitVec 40} {rest : List (BitVec 40)} (hp : s.pending = w :: rest) :
    loseOutstanding s = ({ s with pending := rest }).reply .lost := by
  rw [loseOutstanding, hp]

theorem loseOutstanding_of_nil {s : State} (hp : s.pending = []) : loseOutstanding s = s := by
  rw [loseOutstanding, hp]

theorem status_afterReset (wv : EightWords) (t : BitVec 6) (buf : Block) :
    status (CoreState.afterReset wv t buf) = 0 := by
  have hfields : 0#17 ++ 0#7 ++ 0#3 ++ 0#1 ++ 0#1 ++ 0#1 ++ 0#2 = 0#32 := by decide
  exact hfields

/-- Settles O41: the fields of the core after reset, and the rule of RD DIGESTi on an idle core. -/
theorem resetValues : Obligations.ResetValues := by
  refine ⟨fun wv t buf => ⟨rfl, rfl, rfl, rfl, rfl, rfl, rfl, rfl, rfl, rfl,
    status_afterReset wv t buf, fun s hs i w => ?_⟩, _, _, _, rfl⟩
  have hb : s.core.busy = false := hs ▸ afterReset_busy wv t buf
  have hh : s.core.h = IV := congrArg CoreState.h hs
  rw [exec_rdDigest_idle i w hb, hh]
  rfl

/-- Settles O42: the reset turn, with the outstanding transaction lost or kept. -/
theorem resetEventAbandonsBlock : Obligations.ResetEventAbandonsBlock := by
  intro s p wv t buf ts ht
  refine ⟨_, step_of_reset_turn ht, rfl, ?turns, fun hlost hne => ?lost, fun hkept => ?kept⟩
  case turns => split <;> simp
  case lost =>
    obtain ⟨w, rest, hp⟩ := List.exists_cons_of_ne_nil hne
    have hl : (p || headHeld s) = true := by simpa using hlost
    rw [if_pos hl, loseOutstanding_of_cons (s := { s with turns := ts }) hp, hp]
    exact ⟨rfl, rfl⟩
  case kept =>
    split
    · rename_i hl
      have hp : s.pending = [] := hkept.resolve_left fun h => by simp [h] at hl
      rw [loseOutstanding_of_nil (s := { s with turns := ts }) hp]
      exact ⟨rfl, rfl⟩
    · exact ⟨rfl, rfl⟩

/-! ## The invariant -/

/-- Settles O43: reset is one of the cores after reset, and the invariant says nothing of WV, T and BUF while IDLE. -/
theorem invariantHoldsAtReset : Obligations.InvariantHoldsAtReset := ⟨afterReset_inv _ _ _, afterReset_inv⟩

/-- Settles O44: each agent's step keeps the invariant, and a reset event establishes it. -/
theorem stepKeepsInvariant : Obligations.StepKeepsInvariant := fun _ _ => step_inv

/-- Settles O45: the one fault needs BUF_CNT above 63 on an idle core. -/
theorem invariantExcludesStops : Obligations.InvariantExcludesStops := fun _ => step_answers

end Sys2Proof.Machine
end

section
/-! PROOF. How long the engine takes (70_reset_and_hazards.md R266, R270, R271): its control, which no data value steers
(42_compressor.md R154), the number of steps it has left, and what a host that waits for it sees. -/

namespace Sys2Proof.Machine

/-! ## The update step by its three cases (42_compressor.md R152, 43_sequencer.md R180) -/

/-- The core as SequencerNext finds it in the update step. -/
def CoreState.summed (c : CoreState) : CoreState := { c with h := addWords c.h c.wv, bufCnt := 0 }

/-- The core after the update step of a data block. -/
def CoreState.dataBlockDone (c : CoreState) : CoreState := { c.summed with phase := .idle }

/-- The core after the last update step of FINALIZE. -/
def CoreState.finalizeDone (c : CoreState) : CoreState :=
  { c.summed with fin := false, mode := .finalized, phase := .idle }

section
variable {c : CoreState}

theorem engineStep_second_block (hu : c.phase = .update) (hf : c.fin = true) (hp : c.pend2 = true) :
    engineStep c = padBlock2 c.summed :=
  (engineStep_update hu).trans (sequencerNext_second_block (c := c.summed) hf hp)

theorem engineStep_finalize_done (hu : c.phase = .update) (hf : c.fin = true) (hp : c.pend2 = false) :
    engineStep c = c.finalizeDone :=
  (engineStep_update hu).trans (sequencerNext_finalized (c := c.summed) hf hp)

theorem engineStep_data_block_done (hu : c.phase = .update) (hf : c.fin = false) : engineStep c = c.dataBlockDone :=
  (engineStep_update hu).trans (sequencerNext_data_block (c := c.summed) hf)

/-- All that an engine step can be while BUSY = 1. -/
theorem engineStep_cases (hb : c.busy = true) :
    (c.phase = .round ∧ engineStep c = roundStep c) ∨
    (c.phase = .update ∧ c.fin = true ∧ c.pend2 = true ∧ engineStep c = padBlock2 c.summed) ∨
    (c.phase = .update ∧ c.fin = true ∧ c.pend2 = false ∧ engineStep c = c.finalizeDone) ∨
    (c.phase = .update ∧ c.fin = false ∧ engineStep c = c.dataBlockDone) := by
  rcases (busy_eq_true_iff c).mp hb with hp | hu
  · exact .inl ⟨hp, engineStep_round hp⟩
  cases hf : c.fin with
  | false => exact .inr (.inr (.inr ⟨hu, rfl, engineStep_data_block_done hu hf⟩))
  | true =>
    cases hp : c.pend2 with
    | false => exact .inr (.inr (.inl ⟨hu, rfl, rfl, engineStep_finalize_done hu hf hp⟩))
    | true => exact .inr (.inl ⟨hu, rfl, rfl, engineStep_second_block hu hf hp⟩)

end

/-! ## Control (R154) -/

/-- The two cores have the four elements that steer the engine in common. -/
structure CoreState.SameControl (c d : CoreState) : Prop where
  phase : c.phase = d.phase
  t : c.t = d.t
  fin : c.fin = d.fin
  pend2 : c.pend2 = d.pend2

theorem sameControl_roundStep {c d : CoreState} (h : c.SameControl d) : (roundStep c).SameControl (roundStep d) where
  phase := by rw [roundStep_phase, roundStep_phase, h.t, h.phase]
  t := by rw [roundStep_t, roundStep_t, h.t]
  fin := by rw [roundStep_fin, roundStep_fin, h.fin]
  pend2 := by rw [roundStep_pend2, roundStep_pend2, h.pend2]

theorem sameControl_engineStep {c d : CoreState} (h : c.SameControl d) : (engineStep c).SameControl (engineStep d) := by
  cases hb : c.busy with
  | false =>
    have hidle := (busy_eq_false_iff c).mp hb
    rwa [engineStep_idle hidle, engineStep_idle (h.phase ▸ hidle)]
  | true =>
    obtain ⟨hp, hc⟩ | ⟨hu, hf, h2, hc⟩ | ⟨hu, hf, h2, hc⟩ | ⟨hu, hf, hc⟩ := engineStep_cases hb
    · rw [hc, engineStep_round (h.phase ▸ hp)]
      exact sameControl_roundStep h
    · rw [hc, engineStep_second_block (h.phase ▸ hu) (h.fin ▸ hf) (h.pend2 ▸ h2)]
      exact ⟨rfl, rfl, h.fin, rfl⟩
    · rw [hc, engineStep_finalize_done (h.phase ▸ hu) (h.fin ▸ hf) (h.pend2 ▸ h2)]
      exact ⟨rfl, h.t, rfl, h.pend2⟩
    · rw [hc, engineStep_data_block_done (h.phase ▸ hu) (h.fin ▸ hf)]
      exact ⟨rfl, h.t, h.fin, h.pend2⟩

theorem sameControl_iterate {c d : CoreState} (h : c.SameControl d) (n : Nat) :
    (engineStep^[n] c).SameControl (engineStep^[n] d) := by
  induction n with
  | zero => exact h
  | succ n ih =>
    rw [Function.iterate_succ_apply', Function.iterate_succ_apply']
    exact sameControl_engineStep ih

/-- Settles O36: every engine step keeps the agreement on the four elements. -/
theorem engineControlIgnoresData : Obligations.EngineControlIgnoresData := by
  intro c d n hphase ht hfin hpend2
  have h := sameControl_iterate ⟨hphase, ht, hfin, hpend2⟩ n
  exact ⟨h.phase, h.t, h.fin, h.pend2⟩

/-! ## What an engine step shows in STATUS (20_memory.md R64) -/

theorem status_congr {c d : CoreState} (hcnt : d.bufCnt = c.bufCnt) (hcause : d.ecause = c.ecause)
    (hcmd : d.errCmd = c.errCmd) (hlen : d.errLen = c.errLen) (hbusy : d.busy = c.busy) (hmode : d.mode = c.mode) :
    status d = status c := by
  rw [status, status, hcnt, hcause, hcmd, hlen, hbusy, hmode]

theorem roundStep_busy {c : CoreState} (hb : c.busy = true) : (roundStep c).busy = true := by
  rw [busy_eq_true_iff] at hb ⊢
  rw [roundStep_phase]
  split
  · exact .inr rfl
  · exact hb

/-- Settles O50: the step of a block that goes on leaves BUSY and BUF_CNT at 1 and 64, and the two that end one clear
them. -/
theorem engineStepShowsOnlyCompletion : Obligations.EngineStepShowsOnlyCompletion := by
  intro c hi hb
  have hfull : c.bufCnt = 64 := hi.busy_iff_full.mp hb
  obtain ⟨hp, hc⟩ | ⟨hu, hf, h2, hc⟩ | ⟨hu, hf, h2, hc⟩ | ⟨hu, hf, hc⟩ := engineStep_cases hb
  · rw [hc]
    refine .inl (status_congr ?_ ?_ ?_ ?_ ?_ ?_) <;> simp [hb, roundStep_busy hb]
  · rw [hc]
    exact .inl (status_congr hfull.symm rfl rfl rfl hb.symm rfl)
  · rw [hc]
    exact .inr ⟨hfull, rfl, rfl, .inr rfl, rfl, rfl, rfl⟩
  · rw [hc]
    exact .inr ⟨hfull, rfl, rfl, .inl rfl, rfl, rfl, rfl⟩

/-! ## The engine steps left -/

/-- The steps of the second padding block, where one is due. -/
def CoreState.secondBlockSteps (c : CoreState) : Nat := if c.fin && c.pend2 then 65 else 0

/-- How many steps the engine takes until BUSY = 0 (70_reset_and_hazards.md R271): the rounds from T on, the update
step, and the second padding block. -/
def CoreState.stepsLeft (c : CoreState) : Nat :=
  match c.phase with
  | .idle => 0
  | .round => 65 - c.t.toNat + c.secondBlockSteps
  | .update => 1 + c.secondBlockSteps

section
variable {c : CoreState}

theorem stepsLeft_idle (h : c.phase = .idle) : c.stepsLeft = 0 := by rw [CoreState.stepsLeft, h]

theorem stepsLeft_round (h : c.phase = .round) : c.stepsLeft = 65 - c.t.toNat + c.secondBlockSteps := by
  rw [CoreState.stepsLeft, h]

theorem stepsLeft_update (h : c.phase = .update) : c.stepsLeft = 1 + c.secondBlockSteps := by
  rw [CoreState.stepsLeft, h]

theorem secondBlockSteps_due (hf : c.fin = true) (hp : c.pend2 = true) : c.secondBlockSteps = 65 := by
  rw [CoreState.secondBlockSteps, hf, hp]
  rfl

theorem secondBlockSteps_of_fin (hf : c.fin = false) : c.secondBlockSteps = 0 := by
  rw [CoreState.secondBlockSteps, hf]
  rfl

theorem secondBlockSteps_of_pend2 (hp : c.pend2 = false) : c.secondBlockSteps = 0 := by
  rw [CoreState.secondBlockSteps, hp, Bool.and_false]
  rfl

theorem secondBlockSteps_le (c : CoreState) : c.secondBlockSteps ≤ 65 := by
  unfold CoreState.secondBlockSteps
  split <;> omega

theorem stepsLeft_le (c : CoreState) : c.stepsLeft ≤ 130 := by
  have hsecond := secondBlockSteps_le c
  unfold CoreState.stepsLeft
  split <;> omega

theorem stepsLeft_pos_iff (c : CoreState) : 0 < c.stepsLeft ↔ c.busy = true := by
  have ht : c.t.toNat < 64 := c.t.isLt
  cases hp : c.phase with
  | idle => simp [stepsLeft_idle hp, (busy_eq_false_iff c).mpr hp]
  | round => rw [stepsLeft_round hp, busy_eq_true_iff]; exact iff_of_true (by omega) (.inl hp)
  | update => rw [stepsLeft_update hp, busy_eq_true_iff]; exact iff_of_true (by omega) (.inr hp)

theorem stepsLeft_roundStep (hp : c.phase = .round) : (roundStep c).stepsLeft + 1 = c.stepsLeft := by
  have ht : c.t.toNat < 64 := c.t.isLt
  rw [stepsLeft_round hp]
  obtain hlt | hlast : c.t.toNat < 63 ∨ c.t.toNat = 63 := by omega
  · rw [← engineStep_round hp, engineStep_round_of_lt hp hlt, stepsLeft_round (by exact hp)]
    have hnext : (BitVec.ofNat 6 (c.t.toNat + 1)).toNat = c.t.toNat + 1 := Nat.mod_eq_of_lt (by omega)
    simp only [hnext, CoreState.secondBlockSteps]
    omega
  · rw [← engineStep_round hp, engineStep_round_last hp hlast, stepsLeft_update rfl, hlast]
    simp only [CoreState.secondBlockSteps]
    omega

/-- Each engine step is one of those left. -/
theorem stepsLeft_engineStep (hb : c.busy = true) : (engineStep c).stepsLeft + 1 = c.stepsLeft := by
  obtain ⟨hp, hc⟩ | ⟨hu, hf, h2, hc⟩ | ⟨hu, hf, h2, hc⟩ | ⟨hu, hf, hc⟩ := engineStep_cases hb
  · rw [hc, stepsLeft_roundStep hp]
  · rw [hc, stepsLeft_update hu, secondBlockSteps_due hf h2, stepsLeft_round rfl, secondBlockSteps_of_pend2 rfl]
    rfl
  · rw [hc, stepsLeft_update hu, secondBlockSteps_of_pend2 h2, stepsLeft_idle rfl]
  · rw [hc, stepsLeft_update hu, secondBlockSteps_of_fin hf, stepsLeft_idle rfl]

theorem stepsLeft_iterate (c : CoreState) (n : Nat) : (engineStep^[n] c).stepsLeft = c.stepsLeft - n := by
  induction n generalizing c with
  | zero => rfl
  | succ n ih =>
    rw [Function.iterate_succ_apply, ih]
    cases hb : c.busy with
    | false =>
      have hidle := (busy_eq_false_iff c).mp hb
      rw [engineStep_idle hidle, stepsLeft_idle hidle]
      omega
    | true =>
      have hleft := stepsLeft_engineStep hb
      omega

/-- BUSY is 1 until the last of the engine steps left. -/
theorem busy_iterate_iff (c : CoreState) (n : Nat) : (engineStep^[n] c).busy = true ↔ n < c.stepsLeft := by
  rw [← stepsLeft_pos_iff, stepsLeft_iterate, Nat.sub_pos_iff_lt]

/-! ## MODE and FIN along the way -/

/-- A step that is not the last leaves MODE and FIN (43_sequencer.md R180). -/
theorem engineStep_keeps_mode_fin (h : 1 < c.stepsLeft) :
    (engineStep c).mode = c.mode ∧ (engineStep c).fin = c.fin := by
  have hb : c.busy = true := (stepsLeft_pos_iff c).mp (by omega)
  obtain ⟨hp, hc⟩ | ⟨hu, hf, h2, hc⟩ | ⟨hu, hf, h2, hc⟩ | ⟨hu, hf, hc⟩ := engineStep_cases hb
  · rw [hc]
    exact ⟨roundStep_mode c, roundStep_fin c⟩
  · rw [hc]
    exact ⟨rfl, rfl⟩
  · rw [stepsLeft_update hu, secondBlockSteps_of_pend2 h2] at h
    omega
  · rw [stepsLeft_update hu, secondBlockSteps_of_fin hf] at h
    omega

/-- The last step makes MODE FINALIZED if FIN = 1 (43_sequencer.md R180). -/
theorem engineStep_last_mode (h : c.stepsLeft = 1) : (engineStep c).mode = if c.fin then .finalized else c.mode := by
  have hb : c.busy = true := (stepsLeft_pos_iff c).mp (by omega)
  obtain ⟨hp, hc⟩ | ⟨hu, hf, h2, hc⟩ | ⟨hu, hf, h2, hc⟩ | ⟨hu, hf, hc⟩ := engineStep_cases hb
  · have ht : c.t.toNat < 64 := c.t.isLt
    rw [stepsLeft_round hp] at h
    omega
  · rw [stepsLeft_update hu, secondBlockSteps_due hf h2] at h
    omega
  · rw [hc, hf]
    rfl
  · rw [hc, hf]
    rfl

theorem mode_fin_iterate {n : Nat} (hn : n < c.stepsLeft) :
    (engineStep^[n] c).mode = c.mode ∧ (engineStep^[n] c).fin = c.fin := by
  induction n with
  | zero => exact ⟨rfl, rfl⟩
  | succ n ih =>
    obtain ⟨hmode, hfin⟩ := ih (by omega)
    have hleft : 1 < (engineStep^[n] c).stepsLeft := by rw [stepsLeft_iterate]; omega
    rw [Function.iterate_succ_apply', ← hmode, ← hfin]
    exact engineStep_keeps_mode_fin hleft

theorem mode_iterate_last {n : Nat} (hn : c.stepsLeft = n + 1) :
    (engineStep^[n + 1] c).mode = if c.fin then .finalized else c.mode := by
  obtain ⟨hmode, hfin⟩ := mode_fin_iterate (c := c) (n := n) (by omega)
  have hleft : (engineStep^[n] c).stepsLeft = 1 := by rw [stepsLeft_iterate]; omega
  rw [Function.iterate_succ_apply', engineStep_last_mode hleft, hmode, hfin]

end

/-! ## The step counts (70_reset_and_hazards.md R271) -/

theorem stepsLeft_startBlock {c : CoreState} (hf : c.fin = false) : (startBlock c).stepsLeft = 65 := by
  rw [stepsLeft_round rfl, secondBlockSteps_of_fin (c := startBlock c) hf]
  rfl

theorem stepsLeft_finalizeTail (c : CoreState) :
    (finalizeTail c).stepsLeft = if c.bufCnt.toNat ≥ 56 then 130 else 65 := by
  rw [stepsLeft_round (finalizeTail_phase c), finalizeTail_t, CoreState.secondBlockSteps, finalizeTail_fin,
    finalizeTail_pend2, Bool.true_and]
  simp only [decide_eq_true_eq]
  split <;> rfl

/-- FINALIZE's `n + 1` engine steps: MODE is the old one until the last, which makes it FINALIZED. -/
theorem finalizeTail_steps {c : CoreState} {n : Nat} (hn : (finalizeTail c).stepsLeft = n + 1) :
    (∀ k < n + 1, (engineStep^[k] (finalizeTail c)).busy = true ∧ (engineStep^[k] (finalizeTail c)).mode = c.mode) ∧
    (engineStep^[n + 1] (finalizeTail c)).busy = false ∧ (engineStep^[n + 1] (finalizeTail c)).mode = .finalized := by
  refine ⟨fun k hk => ⟨(busy_iterate_iff _ _).mpr (hn ▸ hk), ?_⟩, ?_, ?_⟩
  · exact (mode_fin_iterate (hn ▸ hk)).1.trans (finalizeTail_mode c)
  · rw [← Bool.not_eq_true, busy_iterate_iff, hn]
    exact lt_irrefl _
  · rw [mode_iterate_last hn, finalizeTail_fin]
    rfl

/-- Settles O37: StartBlock leaves 65 engine steps and FINALIZE 65 or 130. -/
theorem engineStepCounts : Obligations.EngineStepCounts := by
  refine ⟨fun c hf => ⟨fun n hn => busy_iterate_startBlock c hn, ?_, ?_⟩, fun c hn => ?_, fun c hlo hhi => ?_⟩
  · rw [← Bool.not_eq_true, busy_iterate_iff, stepsLeft_startBlock hf]
    exact lt_irrefl _
  · rw [mode_iterate_last (stepsLeft_startBlock hf), startBlock_fin, hf]
    rfl
  · exact finalizeTail_steps (by rw [stepsLeft_finalizeTail, if_neg (by omega)])
  · exact finalizeTail_steps (by rw [stepsLeft_finalizeTail, if_pos hlo])

/-! ## A host that waits (60_exceptions.md R236, 70_reset_and_hazards.md R270) -/

theorem headHeld_cons {s : State} {w : BitVec 40} {rest : List (BitVec 40)} (hp : s.pending = w :: rest) :
    headHeld s = held (decode w) s.core := by
  rw [headHeld, hp]

/-- While the oldest transaction is held every step is the engine's, down to the last one left. -/
theorem reaches_idle_of_waiting {s : State} {w : BitVec 40} {rest : List (BitVec 40)} (hr : s.noReset)
    (hp : s.pending = w :: rest) (hw : neverHeld (decode w) = false) :
    ∃ t, reaches s.core.stepsLeft s t ∧ t.core.busy = false ∧ t.pending = s.pending ∧ t.replies = s.replies := by
  generalize hn : s.core.stepsLeft = n
  induction n generalizing s with
  | zero =>
    have hidle : s.core.busy = false := by rw [← Bool.not_eq_true, ← stepsLeft_pos_iff]; omega
    exact ⟨s, reaches_zero.mpr rfl, hidle, rfl, rfl⟩
  | succ n ih =>
    have hb : s.core.busy = true := (stepsLeft_pos_iff _).mp (by omega)
    have hheld : headHeld s = true := (headHeld_cons hp).trans ((held_eq_true_iff _ _).mpr ⟨hb, hw⟩)
    have hstep := step_of_busy_of_no_host hr hb (.inl hheld)
    have hleft := stepsLeft_engineStep hb
    obtain ⟨t, ht, hdone⟩ :=
      ih (s := { s with core := engineStep s.core, turns := s.turns.tail }) (noReset_tail hr) hp (by dsimp only; omega)
    exact ⟨t, reaches_succ.mpr ⟨_, hstep, ht⟩, hdone⟩

/-- Settles O54: the engine steps left are at most 130, and on the idle core the transaction is not held any more. -/
theorem holdIsLiftedWithin130Steps : Obligations.HoldIsLiftedWithin130Steps := by
  intro s _ hr hheld
  obtain ⟨w, rest, hp⟩ : ∃ w rest, s.pending = w :: rest := by
    refine List.exists_cons_of_ne_nil fun hnil => ?_
    simp [headHeld, hnil] at hheld
  rw [headHeld_cons hp, held_eq_true_iff] at hheld
  obtain ⟨t, ht, hidle, hpending, hreplies⟩ := reaches_idle_of_waiting hr hp hheld.2
  refine ⟨_, t, stepsLeft_le s.core, ht, hidle, hpending, hreplies, ?_⟩
  rw [hostEnabled_cons (hpending.trans hp), not_held_of_idle _ hidle]
  rfl

/-- While BUSY = 1 each step uses up one of the engine steps left or a turn that the environment gave out. -/
theorem step_uses_up {s t : State} (hr : s.noReset) (hb : s.core.busy = true) (hs : step s = .next t) :
    t.turns.length + t.core.stepsLeft < s.turns.length + s.core.stepsLeft := by
  have hleft := stepsLeft_engineStep hb
  have hturns : t.turns.length = s.turns.length - 1 := by rw [step_turns hs, List.length_tail]
  by_cases hhost : s.turns.head? = some .host
  · have hpos : 0 < s.turns.length := by
      rw [List.length_pos_iff]
      rintro hnil
      simp [hnil] at hhost
    have hcore : t.core.stepsLeft ≤ s.core.stepsLeft := by
      obtain rfl | ⟨w, rest, r, -, -, rfl⟩ := step_busy_cases hb hr hs
      · dsimp only; omega
      · exact le_rfl
    omega
  · cases hs.symm.trans (step_of_busy_of_no_host hr hb (.inr (.inr hhost)))
    dsimp only at hturns ⊢
    omega

theorem noReset_step {s t : State} (hr : s.noReset) (hs : step s = .next t) : t.noReset := by
  rw [State.noReset, step_turns hs]
  exact noReset_tail hr

theorem reaches_idle_within {k : Nat} {s : State} (hi : s.Inv) (hr : s.noReset)
    (hk : s.turns.length + s.core.stepsLeft ≤ k) : ∃ n t, n ≤ k ∧ reaches n s t ∧ t.core.busy = false := by
  induction k generalizing s with
  | zero =>
    have hidle : s.core.busy = false := by rw [← Bool.not_eq_true, ← stepsLeft_pos_iff]; omega
    exact ⟨0, s, le_rfl, reaches_zero.mpr rfl, hidle⟩
  | succ k ih =>
    cases hb : s.core.busy with
    | false => exact ⟨0, s, by omega, reaches_zero.mpr rfl, hb⟩
    | true =>
      obtain ⟨u, hu⟩ := step_answers hi
      have hless := step_uses_up hr hb hu
      obtain ⟨n, t, hn, ht, hidle⟩ := ih (step_inv hi hu) (noReset_step hr hu) (by omega)
      exact ⟨n + 1, t, by omega, reaches_succ.mpr ⟨u, hu, ht⟩, hidle⟩

/-- Settles O55: turns and engine steps left together go down with every step of a busy core. -/
theorem engineIsNeverStarved : Obligations.EngineIsNeverStarved := by
  intro s hi hr
  have hleft := stepsLeft_le s.core
  exact reaches_idle_within hi hr (by omega)

end Sys2Proof.Machine
end

section
/-! PROOF. Absorbing at the edges (41_padder.md R104 to R106, 20_memory.md R53), and the sizes of `pad` (R102, R103). -/

namespace Sys2Proof.Machine

/-! ## Past the buffer -/

theorem not_bufferHasRoom {c : CoreState} (hn : c.bufCnt.toNat > 63) : ¬bufferHasRoom c = true := by
  rw [bufferHasRoom_iff]
  omega

theorem not_lengthWouldOverflow {c : CoreState} {bits : Nat} (hl : c.bitlen.toNat ≤ 2 ^ 64 - 1 - bits) :
    ¬lengthWouldOverflow c bits = true := by
  rw [lengthWouldOverflow_iff]
  exact Nat.not_lt.mpr hl

theorem not_dataWordMisaligned {c : CoreState} (ha : c.bufCnt.toNat % 4 = 0) : ¬dataWordMisaligned c = true := by
  rwa [dataWordMisaligned_iff, not_not]

/-- Settles O23: every check passes, and only the test of BUF_CNT is left. -/
theorem absorbingPastTheBufferFaults : Obligations.AbsorbingPastTheBufferFaults := by
  refine fun w ign s hb hm hn => ⟨fun hl => ?_, fun ha hl => ?_, ?_⟩
  · rw [exec_wrDataByte, whileComputing_passed hb hm, if_neg (not_lengthWouldOverflow hl),
      if_neg (not_bufferHasRoom hn)]
  · rw [exec_wrDataWord, whileComputing_passed hb hm, if_neg (not_dataWordMisaligned ha),
      if_neg (not_lengthWouldOverflow hl), if_neg (not_bufferHasRoom hn)]
  · rw [exec_wrCtrlFinalize, whileComputing_passed hb hm, if_neg (not_bufferHasRoom hn)]

/-! ## A DATA_WORD and its four bytes -/

/-- AbsorbByte's precondition holds for `k` bytes one after the other (41_padder.md R104). -/
structure CoreState.Accepts (c : CoreState) (k : Nat) : Prop where
  idle : c.busy = false
  mode : c.mode = .empty ∨ c.mode = .absorbing
  count : c.bufCnt.toNat + k ≤ 64
  length : c.bitlen.toNat + 8 * k ≤ 2 ^ 64 - 1

theorem exec_wrDataByte_accepts {w : Word} {s : State} {k : Nat} (h : s.core.Accepts (k + 1)) :
    exec (.wrDataByte w) s = writeDone s (absorbByte (dataByteOperand w) s.core) := by
  have hn := h.count
  have hl := h.length
  rw [exec_wrDataByte, whileComputing_passed h.idle h.mode, if_neg (not_lengthWouldOverflow (by omega)),
    if_pos ((bufferHasRoom_iff _).mpr (by omega))]

theorem exec_wrDataWord_accepts {w : Word} {s : State} (h : s.core.Accepts 4) (ha : s.core.bufCnt.toNat % 4 = 0) :
    exec (.wrDataWord w) s = writeDone s (absorbWord w s.core) := by
  have hn := h.count
  have hl := h.length
  rw [exec_wrDataWord, whileComputing_passed h.idle h.mode, if_neg (not_dataWordMisaligned ha),
    if_neg (not_lengthWouldOverflow (by omega)), if_pos ((bufferHasRoom_iff _).mpr (by omega))]

/-- A byte that is not the last leaves the others acceptable. -/
theorem absorbByte_accepts {b : Byte} {c : CoreState} {k : Nat} (h : c.Accepts (k + 2)) :
    (absorbByte b c).Accepts (k + 1) := by
  have hn := h.count
  have hl := h.length
  exact {
    idle := absorbByte_idle h.idle (by omega)
    mode := .inr (absorbByte_mode b c)
    count := by rw [toNat_absorbByte_bufCnt (by omega)]; omega
    length := by rw [toNat_absorbByte_bitlen (by omega)]; omega }

theorem accepts_word {c : CoreState} (hb : c.busy = false) (hm : c.mode = .empty ∨ c.mode = .absorbing)
    (hn : c.bufCnt.toNat ≤ 63) (ha : c.bufCnt.toNat % 4 = 0) (hl : c.bitlen.toNat ≤ 2 ^ 64 - 1 - 32) : c.Accepts 4 :=
  ⟨hb, hm, by omega, by omega⟩

/-- WDATA[7:0] of the shifted word is a byte of the word. -/
theorem dataByteOperand_ushiftRight (w : Word) (n : Nat) : dataByteOperand (w >>> n) = w.extractLsb' n 8 := by
  refine BitVec.eq_of_getLsbD_eq fun i hi => ?_
  simp only [dataByteOperand, BitVec.getLsbD_extractLsb', BitVec.getLsbD_ushiftRight, Nat.zero_add]

/-- Settles O24: the four writes are accepted one after the other and are the four AbsorbByte actions of the word. -/
theorem dataWordEqualsFourDataBytes : Obligations.DataWordEqualsFourDataBytes := by
  intro w s hb hm hn ha hl
  have four := accepts_word hb hm hn ha hl
  have three := absorbByte_accepts (b := dataByteOperand (w >>> 24)) four
  have two := absorbByte_accepts (b := dataByteOperand (w >>> 16)) three
  have one := absorbByte_accepts (b := dataByteOperand (w >>> 8)) two
  refine ⟨_, _, _, _, _, exec_wrDataByte_accepts four, exec_wrDataByte_accepts three, exec_wrDataByte_accepts two,
    exec_wrDataByte_accepts one, exec_wrDataWord_accepts four ha, ?_⟩
  simp only [reply_core, dataByteOperand_ushiftRight]
  rfl

/-- The bytes of BUF where the four bytes were stored. -/
theorem blockByte_absorbWord {w : Word} {c : CoreState} (hn : c.bufCnt.toNat ≤ 63) (ha : c.bufCnt.toNat % 4 = 0)
    (i : Nat) (hi : i < 64) : blockByte (absorbWord w c).buf i =
      if i = c.bufCnt.toNat + 3 then dataWordB3 w
      else if i = c.bufCnt.toNat + 2 then dataWordB2 w
      else if i = c.bufCnt.toNat + 1 then dataWordB1 w
      else if i = c.bufCnt.toNat then dataWordB0 w else blockByte c.buf i := by
  rw [absorbWord_eq w c hn ha]
  simp only [blockByte_putByte _ _ _ _ hi]

/-- Settles O25: block word n / 4 is the bytes n to n + 3, which are those of WDATA. -/
theorem dataWordReadsBackAsBlockWord : Obligations.DataWordReadsBackAsBlockWord := by
  intro w s u hb hm hn ha hl hu
  have hdone := (exec_wrDataWord_accepts (w := w) (accepts_word hb hm hn ha hl) ha).symm.trans hu
  have hcore : u.core = absorbWord w s.core := by rw [writeDone_eq_next hdone, reply_core]
  have hfour : 4 * (s.core.bufCnt.toNat / 4) = s.core.bufCnt.toNat := by omega
  rw [blockWord, hcore, hfour, blockByte_absorbWord hn ha _ (by omega), blockByte_absorbWord hn ha _ (by omega),
    blockByte_absorbWord hn ha _ (by omega), blockByte_absorbWord hn ha _ (by omega)]
  simpa using be32_dataWord w

/-! ## `pad` -/

/-- Settles O39: the padded message has the length of its blocks, and z is what is missing to 55 modulo 64. -/
theorem padSizes : Obligations.PadSizes := by
  intro m bs h
  have hblocks : bs.length = (m.length + 8) / 64 + 1 := by
    rw [pad_eq_some h, length_blocks, length_paddedBytes_eq]
    omega
  exact ⟨hblocks, by omega⟩

/-- Settles O40: the test of the length is the only one, and `digest` maps over `pad`. -/
theorem padFailsOnOverlongMessages : Obligations.PadFailsOnOverlongMessages := by
  intro m
  have hpad : pad m = none ↔ m.length ≥ 2 ^ 61 := by
    rw [pad, ite_eq_left_iff]
    simp
  exact ⟨hpad, by rw [digest, Option.map_eq_none_iff, hpad]⟩

end Sys2Proof.Machine
end

section
/-! PROOF. What a step changes of the whole machine: H (10_state.md R21), MODE (43_sequencer.md R181, R182), and the
frame of each transaction (20_memory.md R60, 41_padder.md R105, R106, R110, 43_sequencer.md R174 to R176). -/

namespace Sys2Proof.Machine

/-! ## The four bytes of a DATA_WORD, field by field -/

section
variable (w : Word) (c : CoreState)

@[simp] theorem absorbWord_h : (absorbWord w c).h = c.h := by simp [absorbWord]
@[simp] theorem absorbWord_mode : (absorbWord w c).mode = .absorbing := by simp [absorbWord]
@[simp] theorem absorbWord_fin : (absorbWord w c).fin = c.fin := by simp [absorbWord]
@[simp] theorem absorbWord_pend2 : (absorbWord w c).pend2 = c.pend2 := by simp [absorbWord]

end

theorem toNat_absorbWord_bitlen {w : Word} {c : CoreState} (hn : c.bufCnt.toNat ≤ 63) (ha : c.bufCnt.toNat % 4 = 0)
    (hf : c.bitlen.toNat ≤ 2 ^ 64 - 1 - 32) : (absorbWord w c).bitlen.toNat = c.bitlen.toNat + 32 := by
  rw [absorbWord_eq w c hn ha]
  simp
  omega

/-! ## The hash state (10_state.md R21) -/

theorem engineStep_h {c : CoreState} (hb : c.busy = true) :
    (engineStep c).h = c.h ∨ c.phase = .update ∧ (engineStep c).h = addWords c.h c.wv := by
  rcases (busy_eq_true_iff c).mp hb with hp | hu
  · exact .inl (by rw [engineStep_round hp, roundStep_h])
  · exact .inr ⟨hu, engineStep_update_h hu⟩

theorem coreEffect_h {i : Instr} {c d : CoreState} (h : CoreEffect i c d) :
    d.h = c.h ∨ c.busy = false ∧ (∃ ign, i = .wrCtrlInit ign) ∧ d.h = IV := by
  cases h with
  | init ign what idle => exact .inr ⟨idle, ⟨ign, what⟩, rfl⟩
  | same | rejected | byte | word | finalize => simp

/-- Settles O47: each agent's step; of the transactions only INIT writes H. -/
theorem hashStateChangesOnlyByUpdateInitReset : Obligations.HashStateChangesOnlyByUpdateInitReset := by
  intro s t hs
  obtain ⟨p, wv, r, b, ts, ht, rfl⟩ | ⟨hb, rfl⟩ | ⟨w, rest, hp, -, he⟩ | ⟨-, -, rfl⟩ := step_cases hs
  · exact .inr (.inl ⟨p, wv, r, b, ts, ht, rfl⟩)
  · exact (engineStep_h hb).imp_right fun h => .inr (.inr h)
  · obtain ⟨-, rfl⟩ | ⟨d, r, heffect, rfl⟩ := exec_cases he
    · exact .inl rfl
    · obtain hsame | ⟨idle, ⟨ign, what⟩, hIV⟩ := coreEffect_h heffect
      · exact .inl hsame
      · exact .inr (.inr (.inl ⟨idle, ⟨w, rest, ign, hp, what⟩, hIV⟩))
  · exact .inl rfl

/-! ## The mode machine (43_sequencer.md R181) -/

theorem engineStep_mode {c : CoreState} (hb : c.busy = true) : (engineStep c).mode = c.mode ∨
    (engineStep c).mode = .finalized ∧ c.phase = .update ∧ c.fin = true ∧ c.pend2 = false := by
  obtain ⟨hp, hc⟩ | ⟨hu, hf, h2, hc⟩ | ⟨hu, hf, h2, hc⟩ | ⟨hu, hf, hc⟩ := engineStep_cases hb
  · exact .inl (by rw [hc, roundStep_mode])
  · exact .inl (by rw [hc]; rfl)
  · exact .inr ⟨by rw [hc]; rfl, hu, hf, h2⟩
  · exact .inl (by rw [hc]; rfl)

theorem coreEffect_mode {i : Instr} {c d : CoreState} (h : CoreEffect i c d) :
    d.mode = c.mode ∨ (d.mode = .empty ∧ ∃ ign, i = .wrCtrlInit ign) ∨
    ((c.mode = .empty ∨ c.mode = .absorbing) ∧
      ((d.mode = .absorbing ∧ d.bitlen.toNat > c.bitlen.toNat ∧ deliveredBytes i ≠ []) ∨
        (d.mode = .failed ∧ ∃ e, decidingError i c = some e))) := by
  cases h with
  | same => exact .inl rfl
  | rejected k e idle why =>
    rw [reject_mode]
    split
    · rename_i hm
      exact .inr (.inr ⟨hm, .inr ⟨rfl, (k, e), why⟩⟩)
    · exact .inl rfl
  | init ign what idle => exact .inr (.inl ⟨rfl, ign, what⟩)
  | byte w what idle mode fits room =>
    have hlength := toNat_absorbByte_bitlen (b := dataByteOperand w) fits
    exact .inr (.inr ⟨mode, .inl ⟨absorbByte_mode _ c, by omega, what ▸ List.cons_ne_nil _ _⟩⟩)
  | word w what idle mode aligned fits room =>
    have hlength := toNat_absorbWord_bitlen (w := w) room aligned fits
    exact .inr (.inr ⟨mode, .inl ⟨absorbWord_mode w c, by omega, what ▸ List.cons_ne_nil _ _⟩⟩)
  | finalize ign what idle mode room => exact .inl (finalizeTail_mode c)

/-- Settles O48: the invariant gives the mode of a block in flight; the transactions' modes are those of their
effects. -/
theorem modeChangesOnlyByTable : Obligations.ModeChangesOnlyByTable := by
  intro s t hi hs
  obtain ⟨p, wv, r, b, ts, ht, rfl⟩ | ⟨hb, rfl⟩ | ⟨w, rest, hp, -, he⟩ | ⟨-, -, rfl⟩ := step_cases hs
  · exact .inr (.inl ⟨rfl, .inl ⟨p, wv, r, b, ts, ht⟩⟩)
  · exact (engineStep_mode hb).imp_right fun h => .inr ⟨hi.busy_mode hb, .inr (.inl h)⟩
  · obtain ⟨-, rfl⟩ | ⟨d, r, heffect, rfl⟩ := exec_cases he
    · exact .inl rfl
    · obtain h | ⟨hempty, ign, what⟩ | ⟨hm, ⟨habs, hlength, hbytes⟩ | ⟨hfailed, e, why⟩⟩ := coreEffect_mode heffect
      · exact .inl h
      · exact .inr (.inl ⟨hempty, .inr ⟨w, rest, ign, hp, what⟩⟩)
      · exact .inr (.inr ⟨hm, .inl ⟨habs, hlength, w, rest, hp, hbytes⟩⟩)
      · exact .inr (.inr ⟨hm, .inr (.inr ⟨hfailed, w, rest, e, hp, why⟩)⟩)
  · exact .inl rfl

/-! ## A digest stays (43_sequencer.md R182) -/

/-- Once the computation has ended a transaction that is not INIT leaves MODE, BUSY, H and BITLEN: at most it is
rejected. -/
theorem coreEffect_of_ended {i : Instr} {c d : CoreState} (h : CoreEffect i c d)
    (hend : ¬(c.mode = .empty ∨ c.mode = .absorbing)) (hinit : ∀ ign, i ≠ .wrCtrlInit ign) :
    d.mode = c.mode ∧ d.busy = c.busy ∧ d.h = c.h ∧ d.bitlen = c.bitlen := by
  cases h with
  | same => exact ⟨rfl, rfl, rfl, rfl⟩
  | rejected k e =>
    exact ⟨by rw [reject_mode, if_neg hend], reject_busy k e c, reject_h k e c, reject_bitlen k e c⟩
  | init ign what => exact absurd what (hinit ign)
  | byte w what idle mode | word w what idle mode | finalize ign what idle mode => exact absurd mode hend

theorem coreEffect_keeps_digest {i : Instr} {c d : CoreState} (h : CoreEffect i c d) (hc : c.endedWithDigest)
    (hinit : ∀ ign, i ≠ .wrCtrlInit ign) : d.endedWithDigest ∧ d.h = c.h ∧ d.bitlen = c.bitlen := by
  obtain ⟨hmode, hidle⟩ := hc
  obtain ⟨hm, hb, hh, hl⟩ := coreEffect_of_ended h (by simp [hmode]) hinit
  exact ⟨⟨hm.trans hmode, hb.trans hidle⟩, hh, hl⟩

theorem step_keeps_digest {s t : State} (hc : s.core.endedWithDigest) (hr : s.noReset)
    (hinit : ∀ w ∈ s.pending, ∀ ign, decode w ≠ .wrCtrlInit ign) (hs : step s = .next t) :
    t.core.endedWithDigest ∧ t.core.h = s.core.h ∧ t.core.bitlen = s.core.bitlen ∧ ∀ w ∈ t.pending, w ∈ s.pending := by
  obtain ⟨p, wv, r, b, ts, ht, -⟩ | ⟨hb, -⟩ | ⟨w, rest, hp, hh, he⟩ | ⟨-, -, rfl⟩ := step_cases hs
  · have hx := hr _ (ht ▸ List.mem_cons_self ..)
    cases hx
  · cases hc.2.symm.trans hb
  · obtain ⟨hh', -⟩ | ⟨d, r, heffect, rfl⟩ := exec_cases he
    · cases hh.symm.trans hh'
    · obtain ⟨hd, hhash, hbitlen⟩ := coreEffect_keeps_digest heffect hc (hinit w (by simp [hp]))
      exact ⟨hd, hhash, hbitlen, fun x hx => hp ▸ List.mem_cons_of_mem w hx⟩
  · exact ⟨hc, rfl, rfl, fun _ => id⟩

/-- Settles O49: induction on the number of steps. -/
theorem digestSurvivesUntilInit : Obligations.DigestSurvivesUntilInit := by
  intro s t n
  induction n generalizing s with
  | zero =>
    intro hc _ _ ht
    rw [reaches_zero.mp ht]
    exact ⟨hc, rfl, rfl⟩
  | succ n ih =>
    intro hc hr hinit ht
    obtain ⟨u, hu, hut⟩ := reaches_succ.mp ht
    obtain ⟨huc, huh, hulen, hpending⟩ := step_keeps_digest hc hr hinit hu
    obtain ⟨htc, hth, htlen⟩ := ih u huc (noReset_step hr hu) (fun w hw => hinit w (hpending w hw)) hut
    exact ⟨htc, hth.trans huh, htlen.trans hulen⟩

/-! ## Frames -/

/-- No transaction touches the pending ones or the turns, and each gives at most one reply. -/
theorem exec_outside {i : Instr} {s t : State} (h : exec i s = .next t) : t.pending = s.pending ∧ t.turns = s.turns ∧
    (t.replies = s.replies ∨ ∃ r, t.replies = r :: s.replies) := by
  obtain ⟨-, rfl⟩ | ⟨d, r, -, rfl⟩ := exec_cases h
  · exact ⟨rfl, rfl, .inl rfl⟩
  · exact ⟨rfl, rfl, .inr ⟨r, rfl⟩⟩

/-- The core after a transaction is the old one or its effect. -/
theorem exec_coreEffect {i : Instr} {s t : State} (h : exec i s = .next t) : CoreEffect i s.core t.core := by
  obtain ⟨-, rfl⟩ | ⟨d, r, heffect, rfl⟩ := exec_cases h
  · exact .same
  · exact heffect

section
variable {c d : CoreState}

/-- The transactions that raise no error and are none of the four that act on the core. -/
theorem coreEffect_of_passive {i : Instr} (h : CoreEffect i c d) (herr : errorConditions i c = [])
    (hinit : ∀ ign, i ≠ .wrCtrlInit ign) : d = c := by
  cases h with
  | same => rfl
  | rejected k e idle why => simp [decidingError, herr] at why
  | init ign what => exact absurd what (hinit ign)
  | byte w what | word w what | finalize ign what => rw [what] at herr; cases herr

theorem coreEffect_dataByte_frame {w : Word} (h : CoreEffect (.wrDataByte w) c d) :
    d.h = c.h ∧ d.fin = c.fin ∧ d.pend2 = c.pend2 ∧
    ∀ j < 64, (j < c.bufCnt.toNat ∨ c.bufCnt.toNat + 1 ≤ j) → blockByte d.buf j = blockByte c.buf j := by
  cases h with
  | same => exact ⟨rfl, rfl, rfl, fun _ _ _ => rfl⟩
  | rejected => simp
  | byte w' what =>
    refine ⟨absorbByte_h .., absorbByte_fin .., absorbByte_pend2 .., fun j hj hout => ?_⟩
    rw [absorbByte_buf, blockByte_putByte _ _ _ _ hj, if_neg (by omega)]
  | init ign what | word w what | finalize ign what => cases what

theorem coreEffect_dataWord_frame {w : Word} (h : CoreEffect (.wrDataWord w) c d) :
    d.h = c.h ∧ d.fin = c.fin ∧ d.pend2 = c.pend2 ∧
    ∀ j < 64, (j < c.bufCnt.toNat ∨ c.bufCnt.toNat + 4 ≤ j) → blockByte d.buf j = blockByte c.buf j := by
  cases h with
  | same => exact ⟨rfl, rfl, rfl, fun _ _ _ => rfl⟩
  | rejected => simp
  | word w' what idle mode aligned fits room =>
    refine ⟨absorbWord_h .., absorbWord_fin .., absorbWord_pend2 .., fun j hj hout => ?_⟩
    rw [blockByte_absorbWord room aligned j hj, if_neg (by omega), if_neg (by omega), if_neg (by omega),
      if_neg (by omega)]
  | init ign what | byte w what | finalize ign what => cases what

theorem coreEffect_finalize_frame {ign : BitVec 28} (h : CoreEffect (.wrCtrlFinalize ign) c d) :
    d.h = c.h ∧ d.bitlen = c.bitlen ∧ ∀ j < c.bufCnt.toNat, blockByte d.buf j = blockByte c.buf j := by
  cases h with
  | same => exact ⟨rfl, rfl, fun _ _ => rfl⟩
  | rejected => simp
  | finalize ign' what idle mode room =>
    refine ⟨finalizeTail_h c, finalizeTail_bitlen c, fun j hj => ?_⟩
    rw [blockByte_finalizeTail c j (by omega), if_neg (by omega), if_neg (by omega), if_neg (by omega)]
  | init ign what | byte w what | word w what => cases what

theorem coreEffect_init_frame {ign : BitVec 28} (h : CoreEffect (.wrCtrlInit ign) c d) :
    d.buf = c.buf ∧ d.wv = c.wv ∧ d.t = c.t ∧ d.phase = c.phase := by
  cases h with
  | same | init => exact ⟨rfl, rfl, rfl, rfl⟩
  | rejected k e idle why => cases why
  | byte w what | word w what | finalize ign what => cases what

theorem coreEffect_reserved_frame {i : Instr} (h : CoreEffect i c d)
    (herr : errorConditions i c = [(true, .cmd, .reservedCmd)]) :
    d = { c with errCmd := d.errCmd, ecause := d.ecause, mode := d.mode } := by
  cases h with
  | same => rfl
  | rejected k e idle why =>
    have hreserved : ErrorKind.cmd = k ∧ Cause.reservedCmd = e := by simpa [decidingError, herr] using why
    obtain ⟨rfl, rfl⟩ := hreserved
    rw [reject_cmd_eq]
  | init ign what | byte w what | word w what | finalize ign what => rw [what] at herr; simp [errorConditions] at herr

end

/-- Settles O51: the outside is the same for all; the core is that of the effects a transaction can have. -/
theorem transactionFrames : Obligations.TransactionFrames := by
  intro i s t h
  obtain ⟨hpending, hturns, hreplies⟩ := exec_outside h
  have heffect := exec_coreEffect h
  refine ⟨hpending, hturns, hreplies, ?_⟩
  cases i with
  | wrDataByte w => exact coreEffect_dataByte_frame heffect
  | wrDataWord w => exact coreEffect_dataWord_frame heffect
  | wrCtrlFinalize ign => exact coreEffect_finalize_frame heffect
  | wrCtrlInit ign => exact coreEffect_init_frame heffect
  | wrCtrlRsv3 | wrCtrlRsv4_7 | wrCtrlRsv8_F => exact coreEffect_reserved_frame heffect rfl
  | _ => exact coreEffect_of_passive heffect rfl (by rintro _ ⟨⟩)

end Sys2Proof.Machine
end

section
/-! PROOF. What a transaction reads of the core (10_state.md R44): two cores related in a way that every rule keeps get
the same replies and stay related. -/

namespace Sys2Proof.Machine

/-! ## Related cores -/

/-- The two cores have in common what a transaction tests or returns. -/
structure CoreState.SameVisible (c d : CoreState) : Prop where
  busy : c.busy = d.busy
  mode : c.mode = d.mode
  bitlen : c.bitlen = d.bitlen
  bufCnt : c.bufCnt = d.bufCnt
  h : c.h = d.h
  errLen : c.errLen = d.errLen
  errCmd : c.errCmd = d.errCmd
  ecause : c.ecause = d.ecause

/-- Related cores have in common what a transaction tests or returns, and each effect of a transaction keeps them
related where its precondition holds. -/
structure KeptByRules (R : CoreState → CoreState → Prop) : Prop where
  visible : ∀ {c d}, R c d → c.SameVisible d
  reject : ∀ {c d} k e, R c d → R (reject k e c) (reject k e d)
  init : ∀ {c d}, R c d → R (initCore c) (initCore d)
  absorbByte : ∀ {c d} b, R c d → c.bufCnt.toNat ≤ 63 → R (absorbByte b c) (absorbByte b d)
  finalize : ∀ {c d}, R c d → R (finalizeTail c) (finalizeTail d)

/-- Answers to one transaction in two states: where the first is a next state so is the second, with related cores, the
same new replies, and nothing else changed. -/
def AnswersAlike (R : CoreState → CoreState → Prop) (s u : State) (r q : Result) : Prop :=
  ∀ t, r = .next t → ∃ c d new, R c d ∧ t = { s with core := c, replies := new ++ s.replies } ∧
    q = .next { u with core := d, replies := new ++ u.replies }

section
variable {R : CoreState → CoreState → Prop} {s u : State}

theorem alike_next (h : R s.core u.core) : AnswersAlike R s u (.next s) (.next u) := by
  rintro t ⟨⟩
  exact ⟨_, _, [], h, rfl, rfl⟩

theorem alike_reply (h : R s.core u.core) (r : Reply) : AnswersAlike R s u (.next (s.reply r)) (.next (u.reply r)) := by
  rintro t ⟨⟩
  exact ⟨_, _, [r], h, rfl, rfl⟩

theorem alike_writeDone {c d : CoreState} (h : R c d) : AnswersAlike R s u (writeDone s c) (writeDone u d) := by
  rintro t ⟨⟩
  exact ⟨_, _, [.done], h, rfl, rfl⟩

theorem alike_readReturns (h : R s.core u.core) {v v' : Word} (hv : v = v') :
    AnswersAlike R s u (readReturns s v) (readReturns u v') :=
  hv ▸ alike_reply h (.data v)

theorem alike_fault (f : Fault) (q : Result) : AnswersAlike R s u (.fault f) q := by
  rintro t ⟨⟩

theorem alike_ite {p p' : Prop} [Decidable p] [Decidable p'] {r q r' q' : Result} (hp : p ↔ p')
    (hpos : p → AnswersAlike R s u r q) (hneg : ¬p → AnswersAlike R s u r' q') :
    AnswersAlike R s u (if p then r else r') (if p' then q else q') := by
  by_cases h : p
  · rw [if_pos h, if_pos (hp.mp h)]
    exact hpos h
  · rw [if_neg h, if_neg (fun h' => h (hp.mpr h'))]
    exact hneg h

end

/-! ## Every transaction -/

section
variable {R : CoreState → CoreState → Prop} {s u : State} (hR : KeptByRules R) (h : R s.core u.core)
include hR h

theorem alike_hold {r q : Result} (hr : s.core.busy = false → AnswersAlike R s u r q) :
    AnswersAlike R s u (holdWhileBusy s r) (holdWhileBusy u q) := by
  have hbusy := (hR.visible h).busy
  refine alike_ite (by rw [hbusy]) (fun _ => alike_next h) fun hb => hr (by simpa using hb)

theorem alike_reject (k : ErrorKind) (e : Cause) :
    AnswersAlike R s u (writeDone s (reject k e s.core)) (writeDone u (reject k e u.core)) :=
  alike_writeDone (hR.reject k e h)

theorem alike_whileComputing {r q : Result} (hr : AnswersAlike R s u r q) :
    AnswersAlike R s u (whileComputing s r) (whileComputing u q) := by
  have hmode := (hR.visible h).mode
  refine alike_hold hR h fun _ => ?_
  refine alike_ite (by rw [hmode]) (fun _ => alike_reject hR h _ _) fun _ => ?_
  exact alike_ite (by rw [hmode]) (fun _ => alike_reject hR h _ _) fun _ => hr

theorem alike_lengthCheck {r q : Result} (bits : Nat) (hr : AnswersAlike R s u r q) :
    AnswersAlike R s u
      (if lengthWouldOverflow s.core bits then writeDone s (reject .len .lengthOverflow s.core) else r)
      (if lengthWouldOverflow u.core bits then writeDone u (reject .len .lengthOverflow u.core) else q) := by
  have hbitlen := (hR.visible h).bitlen
  exact alike_ite (by rw [lengthWouldOverflow, lengthWouldOverflow, hbitlen]) (fun _ => alike_reject hR h _ _)
    fun _ => hr

theorem alike_roomCheck {c d : CoreState} (hr : s.core.bufCnt.toNat ≤ 63 → R c d) :
    AnswersAlike R s u (if bufferHasRoom s.core then writeDone s c else .fault .bufferOverrun)
      (if bufferHasRoom u.core then writeDone u d else .fault .bufferOverrun) := by
  have hcnt := (hR.visible h).bufCnt
  exact alike_ite (by rw [bufferHasRoom, bufferHasRoom, hcnt])
    (fun hroom => alike_writeDone (hr ((bufferHasRoom_iff _).mp hroom))) fun _ => alike_fault _ _

/-- Four bytes at an aligned count are absorbed one by one (41_padder.md R106). -/
theorem related_absorbWord (w : Word) (hn : s.core.bufCnt.toNat ≤ 63) (ha : s.core.bufCnt.toNat % 4 = 0) :
    R (absorbWord w s.core) (absorbWord w u.core) := by
  have count {b : Byte} {c : CoreState} {n : Nat} (hc : c.bufCnt.toNat = n) (hn : n ≤ 62) :
      (absorbByte b c).bufCnt.toNat = n + 1 := by rw [toNat_absorbByte_bufCnt (by omega), hc]
  have h1 := hR.absorbByte (dataWordB0 w) h hn
  have n1 := count (b := dataWordB0 w) rfl (by omega : s.core.bufCnt.toNat ≤ 62)
  have h2 := hR.absorbByte (dataWordB1 w) h1 (by omega)
  have n2 := count (b := dataWordB1 w) n1 (by omega)
  have h3 := hR.absorbByte (dataWordB2 w) h2 (by omega)
  have n3 := count (b := dataWordB2 w) n2 (by omega)
  unfold absorbWord
  exact hR.absorbByte (dataWordB3 w) h3 (by omega)

theorem alike_wrDataWord (w : Word) : AnswersAlike R s u (exec (.wrDataWord w) s) (exec (.wrDataWord w) u) := by
  have hcnt := (hR.visible h).bufCnt
  rw [exec_wrDataWord, exec_wrDataWord]
  refine alike_whileComputing hR h (alike_ite (by rw [dataWordMisaligned, dataWordMisaligned, hcnt])
    (fun _ => alike_reject hR h _ _) fun haligned => ?_)
  rw [dataWordMisaligned_iff, not_not] at haligned
  exact alike_lengthCheck hR h 32 (alike_roomCheck hR h fun hroom => related_absorbWord hR h w hroom haligned)

theorem alike_wrDataByte (w : Word) : AnswersAlike R s u (exec (.wrDataByte w) s) (exec (.wrDataByte w) u) := by
  rw [exec_wrDataByte, exec_wrDataByte]
  exact alike_whileComputing hR h (alike_lengthCheck hR h 8 (alike_roomCheck hR h (hR.absorbByte _ h)))

theorem alike_wrCtrlFinalize (ign : BitVec 28) :
    AnswersAlike R s u (exec (.wrCtrlFinalize ign) s) (exec (.wrCtrlFinalize ign) u) := by
  rw [exec_wrCtrlFinalize, exec_wrCtrlFinalize]
  exact alike_whileComputing hR h (alike_roomCheck hR h fun _ => hR.finalize h)

/-- A transaction in two states with related cores. -/
theorem exec_alike (i : Instr) : AnswersAlike R s u (exec i s) (exec i u) := by
  obtain ⟨hbusy, hmode, hbitlen, hcnt, hhash, hlen, hcmd, hcause⟩ := hR.visible h
  have done : AnswersAlike R s u (holdWhileBusy s (writeDone s s.core)) (holdWhileBusy u (writeDone u u.core)) :=
    alike_hold hR h fun _ => alike_writeDone h
  have reserved : AnswersAlike R s u (reservedCommand s) (reservedCommand u) :=
    alike_hold hR h fun _ => alike_reject hR h _ _
  have read {v v' : Word} (hv : v = v') :
      AnswersAlike R s u (holdWhileBusy s (readReturns s v)) (holdWhileBusy u (readReturns u v')) :=
    alike_hold hR h fun _ => alike_readReturns h hv
  cases i with
  | wrDataWord w => exact alike_wrDataWord hR h w
  | wrDataByte w => exact alike_wrDataByte hR h w
  | wrCtrlFinalize ign => exact alike_wrCtrlFinalize hR h ign
  | wrCtrlInit => exact alike_hold hR h fun _ => alike_writeDone (hR.init h)
  | wrCtrlRsv3 | wrCtrlRsv4_7 | wrCtrlRsv8_F => exact reserved
  | wrCtrlNop | wrStatus | wrBitlen | wrRsv | wrDigest => exact done
  | rdCtrl | rdDataWord | rdDataByte | rdRsv => exact read rfl
  | rdBitlenHi => exact read (by rw [bitlenHi, bitlenHi, hbitlen])
  | rdBitlenLo => exact read (by rw [bitlenLo, bitlenLo, hbitlen])
  | rdDigest => exact read (by rw [hhash])
  | rdStatus => exact alike_readReturns h (status_congr hcnt hcause hcmd hlen hbusy hmode)
  | busErrSize | busErrAlignOdd | busErrAlign2 => exact alike_reply h .busError

end

/-- Equal cores are related. -/
theorem eq_keptByRules : KeptByRules Eq where
  visible := by rintro c d rfl; exact ⟨rfl, rfl, rfl, rfl, rfl, rfl, rfl, rfl⟩
  reject := by rintro c d k e rfl; rfl
  init := by rintro c d rfl; rfl
  absorbByte := by rintro c d b rfl _; rfl
  finalize := by rintro c d rfl; rfl

end Sys2Proof.Machine
end

section
/-! PROOF. What no rule reads before it writes it is invisible (10_state.md R22, R26, R29, R44), and INIT makes
everything else the same (43_sequencer.md R183). -/

namespace Sys2Proof.Machine

/-! ## The transactions keep the agreement -/

theorem agrees_refl (c : CoreState) : c.agrees c :=
  ⟨rfl, rfl, rfl, rfl, rfl, rfl, rfl, rfl, rfl, rfl, fun _ => rfl, fun _ => rfl, fun _ _ => rfl⟩

section
variable {c d : CoreState}

theorem busy_of_agrees (h : c.agrees d) : c.busy = d.busy := by rw [CoreState.busy, CoreState.busy, h.phase]

theorem sameVisible_of_agrees (h : c.agrees d) : c.SameVisible d where
  busy := busy_of_agrees h
  mode := h.mode
  bitlen := h.bitlen
  bufCnt := h.bufCnt
  h := h.h
  errLen := h.errLen
  errCmd := h.errCmd
  ecause := h.ecause

theorem reject_agrees (k : ErrorKind) (e : Cause) (h : c.agrees d) : (reject k e c).agrees (reject k e d) := by
  rw [reject_eq, reject_eq]
  exact { h with
    errLen := by simp only [h.errLen]
    errCmd := by simp only [h.errCmd]
    ecause := by simp only [h.ecause]
    mode := by simp only [h.mode] }

theorem initCore_agrees (h : c.agrees d) : (initCore c).agrees (initCore d) :=
  ⟨rfl, rfl, h.phase, rfl, rfl, rfl, rfl, rfl, rfl, rfl, h.wv, h.t, fun _ hi => absurd hi (Nat.not_lt_zero _)⟩

theorem absorbByte_agrees (b : Byte) (h : c.agrees d) (hn : c.bufCnt.toNat ≤ 63) :
    (absorbByte b c).agrees (absorbByte b d) where
  h := by simp [h.h]
  mode := by simp
  phase := by rw [absorbByte_phase, absorbByte_phase, h.bufCnt, h.phase]
  fin := by simp [h.fin]
  pend2 := by simp [h.pend2]
  bitlen := by simp [h.bitlen]
  bufCnt := by simp [h.bufCnt]
  errLen := by simp [h.errLen]
  errCmd := by simp [h.errCmd]
  ecause := by simp [h.ecause]
  wv hb := by
    rw [absorbByte_wv, absorbByte_wv, h.bufCnt, h.h]
    split
    · rfl
    · rename_i hne
      rw [CoreState.busy, absorbByte_phase, h.bufCnt, if_neg hne] at hb
      exact h.wv hb
  t hp := by
    rw [absorbByte_t, absorbByte_t, h.bufCnt]
    split
    · rfl
    · rename_i hne
      rw [absorbByte_phase, h.bufCnt, if_neg hne] at hp
      exact h.t hp
  buf i hi := by
    rw [toNat_absorbByte_bufCnt hn] at hi
    rw [absorbByte_buf, absorbByte_buf, blockByte_putByte _ _ _ _ (by omega), blockByte_putByte _ _ _ _ (by omega),
      ← h.bufCnt]
    split
    · rfl
    · exact h.buf i (by omega)

theorem finalizeTail_agrees (h : c.agrees d) : (finalizeTail c).agrees (finalizeTail d) where
  h := by simp [h.h]
  mode := by simp [h.mode]
  phase := by simp
  fin := by simp
  pend2 := by simp [h.bufCnt]
  bitlen := by simp [h.bitlen]
  bufCnt := by simp
  errLen := by simp [h.errLen]
  errCmd := by simp [h.errCmd]
  ecause := by simp [h.ecause]
  wv _ := by simp [h.h]
  t _ := by simp
  buf i hi := by
    have hi : i < 64 := by simpa using hi
    rw [blockByte_finalizeTail c i hi, blockByte_finalizeTail d i hi, ← h.bufCnt, ← h.bitlen]
    split_ifs with h1 h2 h3
    · rfl
    · rfl
    · rfl
    · exact h.buf i (by omega)

end

theorem agrees_keptByRules : KeptByRules CoreState.agrees where
  visible := sameVisible_of_agrees
  reject := reject_agrees
  init := initCore_agrees
  absorbByte := absorbByte_agrees
  finalize := finalizeTail_agrees

/-! ## The engine keeps the agreement -/

section
variable {c d : CoreState}

/-- While a block is in flight only T can differ, and that only in the update phase. -/
theorem eq_of_agrees_of_full (h : c.agrees d) (hb : c.busy = true) (hfull : c.bufCnt = 64) :
    d = { c with t := d.t } := by
  have hbuf : c.buf = d.buf := block_ext fun i hi => h.buf i (by rw [hfull]; exact hi)
  rw [h.h, h.wv hb, h.mode, h.phase, h.fin, h.pend2, h.bitlen, hbuf, h.bufCnt, h.errLen, h.errCmd, h.ecause]

theorem agrees_of_idle (hb : c.busy = false) (t : BitVec 6) : c.agrees { c with t := t } := by
  refine { agrees_refl c with t := fun hp => ?_ }
  rw [CoreState.busy, hp] at hb
  cases hb

theorem engineStep_agrees (h : c.agrees d) (hb : c.busy = true) (hfull : c.bufCnt = 64) :
    (engineStep c).agrees (engineStep d) := by
  have hd := eq_of_agrees_of_full h hb hfull
  obtain ⟨hp, -⟩ | ⟨hu, hf, h2, hc⟩ | ⟨hu, hf, h2, hc⟩ | ⟨hu, hf, hc⟩ := engineStep_cases hb
  · rw [← h.t hp] at hd
    rw [hd]
    exact agrees_refl _
  · rw [hc, engineStep_second_block (h.phase ▸ hu) (h.fin ▸ hf) (h.pend2 ▸ h2), hd]
    exact agrees_refl _
  · rw [hc, engineStep_finalize_done (h.phase ▸ hu) (h.fin ▸ hf) (h.pend2 ▸ h2), hd]
    exact agrees_of_idle rfl _
  · rw [hc, engineStep_data_block_done (h.phase ▸ hu) (h.fin ▸ hf), hd]
    exact agrees_of_idle rfl _

end

/-! ## The step keeps the agreement -/

/-- Where the first answer is a next state, the second is one that agrees with it. -/
def AnswersAgree (r q : Result) : Prop := ∀ t, r = .next t → ∃ v, q = .next v ∧ t.agrees v

section
variable {s u : State}

theorem answersAgree_next (h : s.agrees u) : AnswersAgree (.next s) (.next u) := by
  rintro t ⟨⟩
  exact ⟨u, rfl, h⟩

theorem answersAgree_of_alike {r q : Result} (ho : s.sameOutside u) (h : AnswersAlike CoreState.agrees s u r q) :
    AnswersAgree r q := by
  intro t ht
  obtain ⟨c, d, new, hcd, rfl, rfl⟩ := h t ht
  exact ⟨_, rfl, { pending := ho.pending, turns := ho.turns, replies := by rw [ho.replies], core := hcd }⟩

theorem hostStep_agrees (h : s.agrees u) : AnswersAgree (hostStep s) (hostStep u) := by
  cases hp : s.pending with
  | nil =>
    have hs : hostStep s = .next s := by rw [hostStep, hp]
    have hu : hostStep u = .next u := by rw [hostStep, ← h.pending, hp]
    rw [hs, hu]
    exact answersAgree_next h
  | cons w rest =>
    have hrest : State.agrees { s with pending := rest } { u with pending := rest } := { h with pending := rfl }
    rw [hostStep_cons hp, hostStep_cons (h.pending ▸ hp)]
    exact answersAgree_of_alike ⟨hrest.pending, hrest.turns, hrest.replies⟩
      (exec_alike agrees_keptByRules hrest.core (decode w))

theorem engineFirst_agrees (hi : s.Inv) (h : s.agrees u) : AnswersAgree (engineFirst s) (engineFirst u) := by
  have hbusy := busy_of_agrees h.core
  cases hb : s.core.busy with
  | false =>
    rw [engineFirst_idle hb, engineFirst_idle (hbusy ▸ hb)]
    exact hostStep_agrees h
  | true =>
    rw [engineFirst_busy hb, engineFirst_busy (hbusy ▸ hb)]
    exact answersAgree_next { h with core := engineStep_agrees h.core hb (hi.busy_iff_full.mp hb) }

theorem headHeld_eq_of_agrees (h : s.agrees u) : headHeld s = headHeld u := by
  have hbusy := busy_of_agrees h.core
  simp only [headHeld, h.pending, held, hbusy]

theorem hostFirst_agrees (hi : s.Inv) (h : s.agrees u) : AnswersAgree (hostFirst s) (hostFirst u) := by
  have henabled : hostEnabled s = hostEnabled u := by rw [hostEnabled, hostEnabled, headHeld_eq_of_agrees h, h.pending]
  rw [hostFirst, hostFirst, ← henabled]
  split
  · exact hostStep_agrees h
  · exact engineFirst_agrees hi h

/-- The outstanding transaction is lost in both machines. -/
theorem loseOutstanding_sameOutside (h : s.sameOutside u) : (loseOutstanding s).sameOutside (loseOutstanding u) := by
  cases hp : s.pending with
  | nil => rwa [loseOutstanding_of_nil hp, loseOutstanding_of_nil (h.pending ▸ hp)]
  | cons w rest =>
    rw [loseOutstanding_of_cons hp, loseOutstanding_of_cons (h.pending ▸ hp)]
    exact ⟨rfl, h.turns, congrArg (Reply.lost :: ·) h.replies⟩

theorem afterReset_agrees (wv wv' : EightWords) (r r' : BitVec 6) (b b' : Block) :
    (CoreState.afterReset wv r b).agrees (CoreState.afterReset wv' r' b') :=
  ⟨rfl, rfl, rfl, rfl, rfl, rfl, rfl, rfl, rfl, rfl, fun hb => (by cases hb), fun hp => (by cases hp),
    fun _ hi => absurd hi (Nat.not_lt_zero _)⟩

/-- A reset event makes the cores agree whatever they were; only the hold needs to be the same before it. -/
theorem resetTurn_agrees (ho : s.sameOutside u) (hheld : headHeld s = headHeld u) (p : Bool) (wv wv' : EightWords)
    (r r' : BitVec 6) (b b' : Block) : AnswersAgree (resetTurn s p wv r b) (resetTurn u p wv' r' b') := by
  rw [resetTurn, resetTurn, ← hheld]
  have hlost : (if p || headHeld s then loseOutstanding s else s).sameOutside
      (if p || headHeld s then loseOutstanding u else u) := by
    split
    · exact loseOutstanding_sameOutside ho
    · exact ho
  exact answersAgree_next ⟨⟨hlost.pending, hlost.turns, hlost.replies⟩, afterReset_agrees ..⟩

/-- The turns of two machines that differ in the values that resets draw. -/
theorem turns_cons_of_map_eq {x : Turn} {ts us : List Turn}
    (h : (x :: ts).map Turn.withoutDraws = us.map Turn.withoutDraws) :
    ∃ y us', us = y :: us' ∧ x.withoutDraws = y.withoutDraws ∧
      ts.map Turn.withoutDraws = us'.map Turn.withoutDraws := by
  cases us with
  | nil => cases h
  | cons y us' => exact ⟨y, us', rfl, (List.cons.inj h).1, (List.cons.inj h).2⟩

/-- A step from the same outside, given what it is where an agent has the turn. -/
theorem step_agrees_of_agents (ho : s.sameOutside u) (hheld : headHeld s = headHeld u)
    (agents : ∀ ts us, ts.map Turn.withoutDraws = us.map Turn.withoutDraws →
      AnswersAgree (engineFirst { s with turns := ts }) (engineFirst { u with turns := us }) ∧
      AnswersAgree (hostFirst { s with turns := ts }) (hostFirst { u with turns := us })) :
    AnswersAgree (step s) (step u) := by
  have hturns := ho.turns
  unfold step takeTurn
  cases hs : s.turns with
  | nil =>
    have hu : u.turns = [] := by simpa [hs] using hturns.symm
    rw [hu]
    exact (agents s.turns u.turns hturns).1
  | cons x ts =>
    rw [hs] at hturns
    obtain ⟨y, us, hu, hxy, htail⟩ := turns_cons_of_map_eq hturns
    rw [hu]
    cases x with
    | engine => cases y <;> cases hxy; exact (agents ts us htail).1
    | host => cases y <;> cases hxy; exact (agents ts us htail).2
    | reset p wv r b =>
      cases y with
      | engine => cases hxy
      | host => cases hxy
      | reset q wv' r' b' =>
        obtain rfl : p = q := by injection hxy
        exact resetTurn_agrees (s := { s with turns := ts }) (u := { u with turns := us })
          ⟨ho.pending, htail, ho.replies⟩ hheld p wv wv' r r' b b'

theorem step_agrees (hi : s.Inv) (h : s.agrees u) : AnswersAgree (step s) (step u) := by
  refine step_agrees_of_agents ⟨h.pending, h.turns, h.replies⟩ (headHeld_eq_of_agrees h) fun ts us htail => ?_
  have hrest : State.agrees { s with turns := ts } { u with turns := us } := { h with turns := htail }
  exact ⟨engineFirst_agrees hi hrest, hostFirst_agrees hi hrest⟩

end

/-- Settles O52: each agent's step and the reset event keep the agreement. -/
theorem unreadStateIsInvisible : Obligations.UnreadStateIsInvisible := fun _ _ => step_agrees

/-! ## INIT forgets the past (43_sequencer.md R183) -/

section
variable {s u : State} {w : BitVec 40} {rest : List (BitVec 40)} {ign : BitVec 28}

/-- INIT on an idle core, whoever has the turn. -/
theorem hostStep_init (hb : s.core.busy = false) (hp : s.pending = w :: rest) (hw : decode w = .wrCtrlInit ign) :
    hostStep s = writeDone { s with pending := rest } (initCore s.core) := by
  rw [hostStep_cons hp, hw]
  exact exec_wrCtrlInit_idle (s := { s with pending := rest }) ign hb

/-- INIT makes two idle cores agree, whatever they were. -/
theorem initCore_agrees_of_idle {c d : CoreState} (hc : c.busy = false) (hd : d.busy = false) :
    (initCore c).agrees (initCore d) := by
  have hc' := (busy_eq_false_iff c).mp hc
  have hd' := (busy_eq_false_iff d).mp hd
  refine ⟨rfl, rfl, hc'.trans hd'.symm, rfl, rfl, rfl, rfl, rfl, rfl, rfl, fun hb => ?_, fun hp => ?_,
    fun _ hi => absurd hi (Nat.not_lt_zero _)⟩
  · cases hc.symm.trans hb
  · cases hc'.symm.trans hp

theorem hostStep_init_agrees (ho : s.sameOutside u) (hs : s.core.busy = false) (hu : u.core.busy = false)
    (hp : s.pending = w :: rest) (hw : decode w = .wrCtrlInit ign) : AnswersAgree (hostStep s) (hostStep u) := by
  rw [hostStep_init hs hp hw, hostStep_init hu (ho.pending ▸ hp) hw]
  exact answersAgree_of_alike (s := { s with pending := rest }) (u := { u with pending := rest })
    ⟨rfl, ho.turns, ho.replies⟩ (alike_writeDone (initCore_agrees_of_idle hs hu))

theorem headHeld_eq_false (hb : s.core.busy = false) : headHeld s = false := by
  cases hp : s.pending with
  | nil => rw [headHeld, hp]
  | cons w rest => rw [headHeld_cons hp, not_held_of_idle _ hb]

/-- The first step performs INIT in both machines, or a reset event in both. -/
theorem step_init_agrees (ho : s.sameOutside u) (hs : s.core.busy = false) (hu : u.core.busy = false)
    (hp : s.pending = w :: rest) (hw : decode w = .wrCtrlInit ign) : AnswersAgree (step s) (step u) := by
  refine step_agrees_of_agents ho ((headHeld_eq_false hs).trans (headHeld_eq_false hu).symm) fun ts us htail => ?_
  have h := hostStep_init_agrees (s := { s with turns := ts }) (u := { u with turns := us })
    ⟨ho.pending, htail, ho.replies⟩ hs hu hp hw
  rw [engineFirst_idle (s := { s with turns := ts }) hs, engineFirst_idle (s := { u with turns := us }) hu,
    hostFirst_idle (s := { s with turns := ts }) hs, hostFirst_idle (s := { u with turns := us }) hu]
  exact ⟨h, h⟩

/-- That step is answered, and after it the invariant holds. -/
theorem step_init_answers (hb : s.core.busy = false) (hp : s.pending = w :: rest) (hw : decode w = .wrCtrlInit ign) :
    ∃ t, step s = .next t ∧ t.Inv := by
  have init (ts : List Turn) : ∃ t, hostStep { s with turns := ts } = .next t ∧ t.Inv :=
    ⟨_, hostStep_init (s := { s with turns := ts }) hb hp hw, initCore_inv hb⟩
  unfold step takeTurn
  split
  · exact engineFirst_idle hb ▸ init s.turns
  · rename_i ts _
    exact engineFirst_idle (s := { s with turns := ts }) hb ▸ init ts
  · rename_i ts _
    exact hostFirst_idle (s := { s with turns := ts }) hb ▸ init ts
  · exact ⟨_, rfl, afterReset_inv ..⟩

end

theorem exists_reaches_agrees {s u : State} (hi : s.Inv) (h : s.agrees u) (n : Nat) :
    ∃ t v, reaches n s t ∧ reaches n u v ∧ t.agrees v := by
  induction n generalizing s u with
  | zero => exact ⟨s, u, reaches_zero.mpr rfl, reaches_zero.mpr rfl, h⟩
  | succ n ih =>
    obtain ⟨s', hs⟩ := step_answers hi
    obtain ⟨u', hu, h'⟩ := step_agrees hi h s' hs
    obtain ⟨t, v, ht, hv, htv⟩ := ih (step_inv hi hs) h'
    exact ⟨t, v, reaches_succ.mpr ⟨s', hs, ht⟩, reaches_succ.mpr ⟨u', hu, hv⟩, htv⟩

/-- Settles O53: after the first step the cores agree and meet the invariant, and the agreement lasts. -/
theorem initForgetsThePast : Obligations.InitForgetsThePast := by
  intro s u w rest ign n hs hu ho hp hw
  obtain ⟨s', hs', hi⟩ := step_init_answers hs hp hw
  obtain ⟨u', hu', h⟩ := step_init_agrees ho hs hu hp hw s' hs'
  obtain ⟨t, v, ht, hv, htv⟩ := exists_reaches_agrees hi h n
  exact ⟨t, v, reaches_succ.mpr ⟨s', hs', ht⟩, reaches_succ.mpr ⟨u', hu', hv⟩, htv⟩

end Sys2Proof.Machine
end

section
/-! PROOF. The final core as a function of the core and the pending transactions (20_memory.md R63): each transaction
waits until the engine has finished, and the order in which the agents move makes no difference. -/

namespace Sys2Proof.Machine

/-! ## The engine to its end -/

/-- The core once the engine has taken the steps it has left. -/
def CoreState.drained (c : CoreState) : CoreState := engineStep^[c.stepsLeft] c

section
variable {c : CoreState}

theorem drained_of_idle (hb : c.busy = false) : c.drained = c := by
  rw [CoreState.drained, stepsLeft_idle ((busy_eq_false_iff c).mp hb)]
  rfl

@[simp] theorem drained_busy (c : CoreState) : c.drained.busy = false := by
  rw [← Bool.not_eq_true, CoreState.drained, busy_iterate_iff]
  exact lt_irrefl _

@[simp] theorem drained_drained (c : CoreState) : c.drained.drained = c.drained := drained_of_idle (drained_busy c)

theorem drained_engineStep (hb : c.busy = true) : (engineStep c).drained = c.drained := by
  rw [CoreState.drained, CoreState.drained, ← stepsLeft_engineStep hb, Function.iterate_succ_apply]

theorem drained_of_finishes {P : CoreState → Prop} (h : c.Finishes P) (hP : ∀ d, P d → d.busy = false) :
    P c.drained := by
  induction h with
  | now h => rwa [drained_of_idle (hP _ h)]
  | step hb _ ih => rwa [drained_engineStep hb] at ih

end

/-! ## One transaction -/

/-- The core after the transaction; a transaction that is not performed leaves it. -/
def performed (i : Instr) (c : CoreState) : CoreState :=
  match exec i { core := c, pending := [], turns := [], replies := [] } with
  | .next t => t.core
  | .fault _ => c
  | .refused _ => c

/-- Nothing but the core decides what a transaction does to the core. -/
theorem performed_of_exec {i : Instr} {s t : State} (h : exec i s = .next t) : performed i s.core = t.core := by
  obtain ⟨c, d, new, rfl, rfl, hu⟩ :=
    exec_alike eq_keptByRules (s := s) (u := { core := s.core, pending := [], turns := [], replies := [] }) rfl i t h
  rw [performed, hu]

theorem performed_of_writeDone {i : Instr} {c d : CoreState}
    (h : ∀ s : State, s.core = c → exec i s = writeDone s d) : performed i c = d :=
  performed_of_exec (s := { core := c, pending := [], turns := [], replies := [] }) (h _ rfl)

theorem coreEffect_performed (i : Instr) (c : CoreState) : CoreEffect i c (performed i c) := by
  unfold performed
  split
  · rename_i t ht
    exact exec_coreEffect ht
  · exact .same
  · exact .same

/-- RD STATUS and bus errors leave the core. -/
theorem performed_of_neverHeld {i : Instr} (h : neverHeld i = true) (c : CoreState) : performed i c = c := by
  cases i with
  | rdStatus | busErrSize | busErrAlignOdd | busErrAlign2 => rfl
  | _ => cases h

/-! ## All that is pending -/

/-- The core after the pending transactions, each performed once the engine has finished. -/
def finalCore : CoreState → List (BitVec 40) → CoreState
  | c, [] => c.drained
  | c, w :: rest => finalCore (performed (decode w) c.drained) rest

theorem finalCore_drained (c : CoreState) (ws : List (BitVec 40)) : finalCore c.drained ws = finalCore c ws := by
  cases ws <;> simp [finalCore]

theorem finalCore_engineStep {c : CoreState} (hb : c.busy = true) (ws : List (BitVec 40)) :
    finalCore (engineStep c) ws = finalCore c ws := by
  rw [← finalCore_drained, drained_engineStep hb, finalCore_drained]

/-- All that a step without a reset event is: the engine's, the host's on an idle core, a transaction of the host that
is never held while BUSY = 1, or the use of a turn. -/
theorem step_noReset_cases {s t : State} (hr : s.noReset) (h : step s = .next t) :
    (s.core.busy = true ∧ t.core = engineStep s.core ∧ t.pending = s.pending) ∨
    (∃ w rest, s.pending = w :: rest ∧ t.pending = rest ∧ t.core = performed (decode w) s.core.drained ∧
      s.core.busy = false) ∨
    (∃ w rest, s.pending = w :: rest ∧ t.pending = rest ∧ t.core = s.core ∧ neverHeld (decode w) = true) ∨
    (t.core = s.core ∧ t.pending = s.pending) := by
  obtain ⟨p, wv, r, b, ts, ht, -⟩ | ⟨hb, rfl⟩ | ⟨w, rest, hp, hh, he⟩ | ⟨-, -, rfl⟩ := step_cases h
  · have hx := hr _ (ht ▸ List.mem_cons_self ..)
    cases hx
  · exact .inl ⟨hb, rfl, rfl⟩
  · have hcore := performed_of_exec he
    have hpending := (exec_outside he).1
    cases hb : s.core.busy with
    | false => exact .inr (.inl ⟨w, rest, hp, hpending, by rw [drained_of_idle hb, ← hcore], rfl⟩)
    | true =>
      have hnever : neverHeld (decode w) = true := by simpa [held, hb] using hh
      exact .inr (.inr (.inl ⟨w, rest, hp, hpending, by rw [← hcore, performed_of_neverHeld hnever], hnever⟩))
  · exact .inr (.inr (.inr ⟨rfl, rfl⟩))

theorem step_keeps_finalCore {s t : State} (hr : s.noReset) (h : step s = .next t) :
    finalCore t.core t.pending = finalCore s.core s.pending := by
  obtain ⟨hb, hc, hp⟩ | ⟨w, rest, hp, ht, hc, -⟩ | ⟨w, rest, hp, ht, hc, hnever⟩ | ⟨hc, hp⟩ := step_noReset_cases hr h
  · rw [hc, hp, finalCore_engineStep hb]
  · rw [hc, hp, ht, finalCore]
  · rw [hc, hp, ht, finalCore, performed_of_neverHeld hnever, finalCore_drained]
  · rw [hc, hp]

theorem reaches_keeps_finalCore {n : Nat} {s t : State} (hr : s.noReset) (h : reaches n s t) :
    finalCore t.core t.pending = finalCore s.core s.pending := by
  induction n generalizing s with
  | zero => rw [reaches_zero.mp h]
  | succ n ih =>
    obtain ⟨u, hu, ht⟩ := reaches_succ.mp h
    rw [ih (noReset_step hr hu) ht, step_keeps_finalCore hr hu]

/-- A run that comes to rest does so in the final core. -/
theorem core_eq_finalCore {n : Nat} {s t : State} (hr : s.noReset) (h : reaches n s t) (hq : t.quiet) :
    t.core = finalCore s.core s.pending := by
  rw [← reaches_keeps_finalCore hr h, hq.2, finalCore, drained_of_idle hq.1]

/-- Settles O56: both runs come to rest in the final core of what they have in common. -/
theorem finalStateIgnoresInterleaving : Obligations.FinalStateIgnoresInterleaving := by
  intro s u t v n m hcore hpending hs hu ht hv htq hvq
  rw [core_eq_finalCore hs ht htq, core_eq_finalCore hu hv hvq, hcore, hpending]

end Sys2Proof.Machine
end

section
/-! PROOF. The blocks passed to StartBlock (41_padder.md R112) as a function of the core and the pending
transactions. -/

namespace Sys2Proof.Machine

/-! ## The block that a step starts -/

/-- The block in BUF where the core comes to stand at the start of one. -/
def newBlock (c d : CoreState) : List Block := if d.atBlockStart && !c.atBlockStart then [d.buf] else []

theorem startedBlocks_succ {n : Nat} {s t : State} (h : step s = .next t) :
    startedBlocks (n + 1) s = newBlock s.core t.core ++ startedBlocks n t := by
  rw [startedBlocks, h]
  rfl

@[simp] theorem newBlock_self (c : CoreState) : newBlock c c = [] := by simp [newBlock]

theorem newBlock_of_not_start (c : CoreState) {d : CoreState} (h : d.atBlockStart = false) : newBlock c d = [] := by
  simp [newBlock, h]

theorem newBlock_of_start {c d : CoreState} (hc : c.atBlockStart = false) (hd : d.atBlockStart = true) :
    newBlock c d = [d.buf] := by
  simp [newBlock, hc, hd]

theorem atBlockStart_of_phase {c : CoreState} (h : c.phase ≠ .round) : c.atBlockStart = false := by
  simp [CoreState.atBlockStart, h]

theorem atBlockStart_of_idle {c : CoreState} (hb : c.busy = false) : c.atBlockStart = false :=
  atBlockStart_of_phase (by rw [(busy_eq_false_iff c).mp hb]; decide)

theorem atBlockStart_startBlock (c : CoreState) : (startBlock c).atBlockStart = true := rfl

/-- No round step leads to the start of a block: T goes up, and after round 63 the phase is UPDATE. -/
theorem atBlockStart_roundStep (c : CoreState) : (roundStep c).atBlockStart = false := by
  by_cases ht : c.t = 63
  · exact atBlockStart_of_phase (by rw [roundStep_phase, if_pos ht]; decide)
  · have hne : c.t + 1 ≠ 0 := by
      have hall : ∀ t : BitVec 6, t ≠ 63 → t + 1 ≠ 0 := by decide
      exact hall c.t ht
    simp only [CoreState.atBlockStart, roundStep_t, if_neg ht]
    simpa using fun _ => hne

/-! ## The block the engine has yet to start -/

/-- The second padding block, where one is due. -/
def CoreState.blocksDue (c : CoreState) : List Block :=
  if c.busy && (c.fin && c.pend2) then [(padBlock2 c).buf] else []

theorem padBlock2_buf_congr {c d : CoreState} (h : c.bitlen = d.bitlen) : (padBlock2 c).buf = (padBlock2 d).buf :=
  block_ext fun i hi => by rw [blockByte_padBlock2 c i hi, blockByte_padBlock2 d i hi, h]

section
variable {c : CoreState}

theorem blocksDue_of_idle (hb : c.busy = false) : c.blocksDue = [] := by simp [CoreState.blocksDue, hb]

theorem blocksDue_of_fin (hf : c.fin = false) : c.blocksDue = [] := by simp [CoreState.blocksDue, hf]

theorem blocksDue_of_pend2 (hp : c.pend2 = false) : c.blocksDue = [] := by simp [CoreState.blocksDue, hp]

theorem blocksDue_of_due (hb : c.busy = true) (hf : c.fin = true) (hp : c.pend2 = true) :
    c.blocksDue = [(padBlock2 c).buf] := by
  simp [CoreState.blocksDue, hb, hf, hp]

/-- The engine starts the block that is due, once. -/
theorem blocksDue_engineStep (hb : c.busy = true) :
    newBlock c (engineStep c) ++ (engineStep c).blocksDue = c.blocksDue := by
  obtain ⟨hp, hc⟩ | ⟨hu, hf, h2, hc⟩ | ⟨hu, hf, h2, hc⟩ | ⟨hu, hf, hc⟩ := engineStep_cases hb
  · have hbuf : (padBlock2 (roundStep c)).buf = (padBlock2 c).buf := padBlock2_buf_congr (roundStep_bitlen c)
    rw [hc, newBlock_of_not_start _ (atBlockStart_roundStep c), List.nil_append, CoreState.blocksDue,
      CoreState.blocksDue, roundStep_busy hb, hb, roundStep_fin, roundStep_pend2, hbuf]
  · have hstart : c.atBlockStart = false := atBlockStart_of_phase (by rw [hu]; decide)
    have hbuf : (padBlock2 c.summed).buf = (padBlock2 c).buf := padBlock2_buf_congr rfl
    rw [hc, newBlock_of_start hstart rfl, blocksDue_of_pend2 rfl, blocksDue_of_due hb hf h2, hbuf]
    rfl
  · rw [hc, newBlock_of_not_start _ rfl, blocksDue_of_fin (c := c.finalizeDone) rfl, blocksDue_of_pend2 h2]
    rfl
  · rw [hc, newBlock_of_not_start _ rfl, blocksDue_of_fin (c := c.dataBlockDone) hf, blocksDue_of_fin hf]
    rfl

end

/-! ## The blocks of all that is pending -/

/-- The blocks that the engine and the pending transactions start, each transaction performed once the engine has
finished. -/
def blocksOf : CoreState → List (BitVec 40) → List Block
  | c, [] => c.blocksDue
  | c, w :: rest => c.blocksDue ++ (newBlock c.drained (performed (decode w) c.drained) ++
      blocksOf (performed (decode w) c.drained) rest)

theorem blocksOf_eq (c : CoreState) (ws : List (BitVec 40)) : blocksOf c ws = c.blocksDue ++ blocksOf c.drained ws := by
  have hnone : c.drained.blocksDue = [] := blocksDue_of_idle (drained_busy c)
  cases ws <;> simp [blocksOf, hnone]

theorem blocksOf_engineStep {c : CoreState} (hb : c.busy = true) (ws : List (BitVec 40)) :
    newBlock c (engineStep c) ++ blocksOf (engineStep c) ws = blocksOf c ws := by
  rw [blocksOf_eq (engineStep c), blocksOf_eq c, ← List.append_assoc, blocksDue_engineStep hb, drained_engineStep hb]

theorem step_blocksOf {s t : State} (hr : s.noReset) (h : step s = .next t) :
    newBlock s.core t.core ++ blocksOf t.core t.pending = blocksOf s.core s.pending := by
  obtain ⟨hb, hc, hp⟩ | ⟨w, rest, hp, ht, hc, hb⟩ | ⟨w, rest, hp, ht, hc, hnever⟩ | ⟨hc, hp⟩ := step_noReset_cases hr h
  · rw [hc, hp, blocksOf_engineStep hb]
  · rw [hc, hp, ht, blocksOf, blocksDue_of_idle hb, drained_of_idle hb, List.nil_append]
  · rw [hc, hp, ht, newBlock_self, blocksOf, performed_of_neverHeld hnever, newBlock_self, blocksOf_eq s.core]
    rfl
  · rw [hc, hp, newBlock_self, List.nil_append]

/-- A run that comes to rest has started these blocks. -/
theorem startedBlocks_eq_blocksOf {n : Nat} {s t : State} (hr : s.noReset) (h : reaches n s t) (hq : t.quiet) :
    startedBlocks n s = blocksOf s.core s.pending := by
  induction n generalizing s with
  | zero =>
    obtain rfl := reaches_zero.mp h
    rw [hq.2, blocksOf, blocksDue_of_idle hq.1]
    rfl
  | succ n ih =>
    obtain ⟨u, hu, ht⟩ := reaches_succ.mp h
    rw [startedBlocks_succ hu, ih (noReset_step hr hu) ht, step_blocksOf hr hu]

end Sys2Proof.Machine
end

section
/-! PROOF. A computation that ends in FINALIZED (41_padder.md R112, 43_sequencer.md R170, R182): its blocks are those of
`pad` and its hash is the digest, for any mix of DATA_BYTE and DATA_WORD. -/

namespace Sys2Proof.Machine

/-! ## Blocks of a message that grows -/

theorem blocks_eq (p : List Byte) : blocks p = (List.range (p.length / 64)).map (blockAt p) := rfl

/-- The whole blocks of a message are the first ones of every longer message. -/
theorem map_blockAt_append {p : List Byte} (q : List Byte) {k : Nat} (h : 64 * k ≤ p.length) :
    (List.range k).map (blockAt (p ++ q)) = (List.range k).map (blockAt p) := by
  refine List.map_congr_left fun j hj => ?_
  have hj : j < k := List.mem_range.mp hj
  exact blockAt_append q (by omega)

theorem blocks_append_same {p q : List Byte} (h : (p ++ q).length / 64 = p.length / 64) :
    blocks (p ++ q) = blocks p := by
  rw [blocks_eq, blocks_eq, h, map_blockAt_append q (by omega)]

theorem blocks_append_one {p q : List Byte} (h : (p ++ q).length / 64 = p.length / 64 + 1) :
    blocks (p ++ q) = blocks p ++ [blockAt (p ++ q) (p.length / 64)] := by
  rw [blocks_eq, blocks_eq, h, List.range_succ, List.map_append, map_blockAt_append q (by omega), List.map_singleton]

theorem blocks_append_two {p q : List Byte} (h : (p ++ q).length / 64 = p.length / 64 + 1 + 1) : blocks (p ++ q) =
    blocks p ++ ([blockAt (p ++ q) (p.length / 64)] ++ [blockAt (p ++ q) (p.length / 64 + 1)]) := by
  rw [blocks_eq, blocks_eq, h, List.range_succ, List.range_succ, List.map_append, List.map_append,
    map_blockAt_append q (by omega), List.map_singleton, List.map_singleton, List.append_assoc]

/-! ## One write that delivers bytes -/

/-- The write with core `d` after it, on the idle core of message `m`, absorbed the bytes `bs`, and the block it filled,
if any, is the next one of the message. -/
structure Delivered (m bs : List Byte) (d : CoreState) : Prop where
  absorbed : d.drained.Absorbed (m ++ bs)
  fin : d.fin = false
  started : ∀ c : CoreState, c.busy = false → blocks (m ++ bs) = blocks m ++ newBlock c d

section
variable {m : List Byte} {c : CoreState}

theorem length_of_absorbed (h : c.Absorbed m) : m.length < 2 ^ 61 := by
  have hlength := h.length
  have hfits := c.bitlen.isLt
  omega

theorem drained_of_finishes_absorbed (h : c.Finishes (·.Absorbed m)) : c.drained.Absorbed m :=
  drained_of_finishes h fun _ hd => hd.idle

theorem absorbByte_started (b : Byte) (h : c.Absorbed m) (hl : m.length + 1 < 2 ^ 61) {e : CoreState}
    (he : e.busy = false) : blocks (m ++ [b]) = blocks m ++ newBlock e (absorbByte b c) := by
  have hlen : (m ++ [b]).length = m.length + 1 := List.length_append
  obtain hn | hn : m.length % 64 < 63 ∨ m.length % 64 = 63 := by omega
  · have hidle := (absorbByte_absorbed (b := b) h hl hn).idle
    rw [newBlock_of_not_start _ (atBlockStart_of_idle hidle), List.append_nil, blocks_append_same (by omega)]
  · have hstart : (absorbByte b c).atBlockStart = true := by
      rw [← absorbByte_of_full b (h.count.trans hn)]
      exact atBlockStart_startBlock _
    have hblock : (absorbByte b c).buf = blockAt (m ++ [b]) (m.length / 64) := by
      refine block_ext fun i hi => ?_
      rw [blockByte_absorbByte h (by omega), blockByte_blockAt _ _ hi]
    rw [newBlock_of_start (atBlockStart_of_idle he) hstart, hblock, blocks_append_one (by omega)]

theorem delivered_byte (b : Byte) (h : c.Absorbed m) (hl : m.length + 1 < 2 ^ 61) :
    Delivered m [b] (absorbByte b c) where
  absorbed := drained_of_finishes_absorbed (absorbByte_finishes h hl)
  fin := (absorbByte_fin b c).trans h.fin
  started _ he := absorbByte_started b h hl he

/-- A byte that leaves room in BUF, then more bytes. -/
theorem delivered_cons {b : Byte} {bs : List Byte} {d : CoreState} (h : Delivered (m ++ [b]) bs d)
    (hn : m.length % 64 < 63) : Delivered m (b :: bs) d where
  absorbed := by simpa using h.absorbed
  fin := h.fin
  started e he := by
    have hlen : (m ++ [b]).length = m.length + 1 := List.length_append
    have hmore := h.started e he
    rwa [blocks_append_same (p := m) (q := [b]) (by omega), List.append_assoc] at hmore

theorem delivered_word (w : Word) (h : c.Absorbed m) (hl : m.length + 4 < 2 ^ 61) (ha : m.length % 4 = 0) :
    Delivered m [dataWordB0 w, dataWordB1 w, dataWordB2 w, dataWordB3 w] (absorbWord w c) := by
  have append (p : List Byte) (b : Byte) : (p ++ [b]).length = p.length + 1 := List.length_append
  have h1 := absorbByte_absorbed (b := dataWordB0 w) h (by omega) (by omega)
  have l1 := append m (dataWordB0 w)
  have h2 := absorbByte_absorbed (b := dataWordB1 w) h1 (by omega) (by omega)
  have l2 := append (m ++ [dataWordB0 w]) (dataWordB1 w)
  have h3 := absorbByte_absorbed (b := dataWordB2 w) h2 (by omega) (by omega)
  have l3 := append (m ++ [dataWordB0 w] ++ [dataWordB1 w]) (dataWordB2 w)
  have h4 := delivered_byte (dataWordB3 w) h3 (by omega)
  unfold absorbWord
  exact delivered_cons (delivered_cons (delivered_cons h4 (by omega)) (by omega)) (by omega)

/-- No error of the list applies. -/
theorem not_applies_of_decidingError {i : Instr} {applies : Bool} (k : ErrorKind) (e : Cause)
    (h : decidingError i c = none) (hmem : (applies, k, e) ∈ errorConditions i c) : ¬applies = true := by
  rw [decidingError, Option.map_eq_none_iff, List.find?_eq_none] at h
  exact h (applies, k, e) hmem

/-- A DATA_BYTE that raises no error is absorbed. -/
theorem delivered_dataByte {w : Word} (h : c.Absorbed m) (hnone : decidingError (.wrDataByte w) c = none) :
    Delivered m (deliveredBytes (.wrDataByte w)) (performed (.wrDataByte w) c) := by
  have hfits : ¬lengthWouldOverflow c 8 = true :=
    not_applies_of_decidingError .len .lengthOverflow hnone (by simp [errorConditions])
  have hl : m.length + 1 < 2 ^ 61 := by
    have hlength := h.length
    rw [lengthWouldOverflow_iff] at hfits
    omega
  have hperformed : performed (.wrDataByte w) c = absorbByte (dataByteOperand w) c :=
    performed_of_writeDone fun s hs => hs ▸ exec_wrDataByte_absorbed w (hs ▸ h) hl
  rw [hperformed]
  exact delivered_byte _ h hl

/-- A DATA_WORD that raises no error is absorbed. -/
theorem delivered_dataWord {w : Word} (h : c.Absorbed m) (hnone : decidingError (.wrDataWord w) c = none) :
    Delivered m (deliveredBytes (.wrDataWord w)) (performed (.wrDataWord w) c) := by
  have haligned : ¬dataWordMisaligned c = true :=
    not_applies_of_decidingError .cmd .dataWordMisaligned hnone (by simp [errorConditions])
  have hfits : ¬lengthWouldOverflow c 32 = true :=
    not_applies_of_decidingError .len .lengthOverflow hnone (by simp [errorConditions])
  have hl : m.length + 4 < 2 ^ 61 := by
    have hlength := h.length
    rw [lengthWouldOverflow_iff] at hfits
    omega
  have ha : m.length % 4 = 0 := by
    have hcount := h.count
    rw [dataWordMisaligned_iff] at haligned
    omega
  have hperformed : performed (.wrDataWord w) c = absorbWord w c :=
    performed_of_writeDone fun s hs => hs ▸ exec_wrDataWord_absorbed w (hs ▸ h) hl ha
  rw [hperformed]
  exact delivered_word w h hl ha

/-! ## Failure lasts (43_sequencer.md R181) -/

/-- An idle core in FAILED. -/
def CoreState.Failed (c : CoreState) : Prop := c.endedWithoutDigest ∧ c.busy = false

theorem reject_failed (k : ErrorKind) (e : Cause) (hm : c.mode = .empty ∨ c.mode = .absorbing) (hb : c.busy = false) :
    (reject k e c).Failed := by
  refine ⟨?_, (reject_busy k e c).trans hb⟩
  rw [CoreState.endedWithoutDigest, reject_mode, if_pos hm]

theorem coreEffect_failed {i : Instr} {d : CoreState} (h : CoreEffect i c d) (hc : c.Failed)
    (hinit : ∀ ign, i ≠ .wrCtrlInit ign) : d.Failed := by
  obtain ⟨hmode, hidle⟩ := hc
  have hend : ¬(c.mode = .empty ∨ c.mode = .absorbing) := by simp [show c.mode = .failed from hmode]
  obtain ⟨hm, hb, -, -⟩ := coreEffect_of_ended h hend hinit
  exact ⟨hm.trans hmode, hb.trans hidle⟩

theorem finalCore_failed {program : List Instr} (hc : c.Failed) (hinit : ∀ i ∈ program, ∀ ign, i ≠ .wrCtrlInit ign) :
    (finalCore c (program.map encode)).mode = .failed := by
  induction program generalizing c with
  | nil => rw [List.map_nil, finalCore, drained_of_idle hc.2, hc.1]
  | cons i program ih =>
    rw [List.map_cons, finalCore, decode_encode, drained_of_idle hc.2]
    exact ih (coreEffect_failed (coreEffect_performed i c) hc (hinit i (by simp))) fun j hj => hinit j (by simp [hj])

/-! ## The whole computation -/

/-- From the core `c` of message `m` on, the pending transactions make a computation on `whole`: its blocks are those of
`pad` and its hash is the digest. -/
structure Completes (c : CoreState) (pending : List (BitVec 40)) (m whole : List Byte) : Prop where
  short : whole.length < 2 ^ 61
  hashed : (finalCore c pending).Hashed whole
  started : blocks m ++ blocksOf c pending = blocks (paddedBytes whole)

theorem performed_finalize (ign : BitVec 28) (h : c.Absorbed m) : performed (.wrCtrlFinalize ign) c = finalizeTail c :=
  performed_of_writeDone fun _ hs => hs ▸ exec_wrCtrlFinalize_absorbed ign (hs ▸ h)

/-- The one or two blocks of FINALIZE are those that `pad` has behind the whole blocks of the message. -/
theorem blocks_paddedBytes (h : c.Absorbed m) :
    blocks (paddedBytes m) = blocks m ++ ([(finalizeTail c).buf] ++ (finalizeTail c).blocksDue) := by
  have hlen := length_paddedBytes_eq m
  obtain ⟨z, hp⟩ := exists_paddedBytes_eq m
  rw [finalizeTail_buf h]
  obtain hn | hn : m.length % 64 ≤ 55 ∨ 56 ≤ m.length % 64 := by omega
  · have hpend2 : (finalizeTail c).pend2 = false := by
      rw [finalizeTail_pend2, h.count]
      exact decide_eq_false (by omega)
    rw [blocksDue_of_pend2 hpend2, List.append_nil]
    rw [hp] at hlen ⊢
    exact blocks_append_one (by omega)
  · have hpend2 : (finalizeTail c).pend2 = true := by
      rw [finalizeTail_pend2, h.count]
      exact decide_eq_true hn
    have hbitlen : (finalizeTail c).bitlen = BitVec.ofNat 64 (8 * m.length) :=
      (finalizeTail_bitlen c).trans (bitlen_of_absorbed h)
    rw [blocksDue_of_due (finalizeTail_busy c) (finalizeTail_fin c) hpend2, padBlock2_buf hbitlen hn]
    rw [hp] at hlen ⊢
    exact blocks_append_two (by omega)

theorem completes_finalize (ign : BitVec 28) (h : c.Absorbed m) : Completes c [encode (.wrCtrlFinalize ign)] m m where
  short := length_of_absorbed h
  hashed := by
    rw [finalCore, decode_encode, drained_of_idle h.idle, performed_finalize ign h]
    exact drained_of_finishes (finalizeTail_finishes h) fun _ hd => hd.idle
  started := by
    have hstart : (finalizeTail c).atBlockStart = true := by
      rw [← startBlock_finalizeTail]
      exact atBlockStart_startBlock _
    rw [blocksOf, decode_encode, drained_of_idle h.idle, performed_finalize ign h, blocksDue_of_idle h.idle,
      newBlock_of_start (atBlockStart_of_idle h.idle) hstart, blocksOf, blocks_paddedBytes h]
    rfl

/-- A write that delivered its bytes, then the rest of the computation. -/
theorem completes_cons {i : Instr} {ws : List (BitVec 40)} {whole : List Byte} (hb : c.busy = false)
    (hi : Delivered m (deliveredBytes i) (performed i c))
    (h : Completes (performed i c).drained ws (m ++ deliveredBytes i) whole) :
    Completes c (encode i :: ws) m whole where
  short := h.short
  hashed := by
    rw [finalCore, decode_encode, drained_of_idle hb, ← finalCore_drained]
    exact h.hashed
  started := by
    rw [blocksOf, decode_encode, drained_of_idle hb, blocksDue_of_idle hb, blocksOf_eq, blocksDue_of_fin hi.fin,
      List.nil_append, List.nil_append, ← List.append_assoc, ← hi.started c hb]
    exact h.started

/-- Only DATA_BYTE and DATA_WORD deliver bytes (20_memory.md R52). -/
theorem dataWrite_of_deliveredBytes {i : Instr} (h : deliveredBytes i ≠ []) :
    (∃ w, i = .wrDataByte w) ∨ ∃ w, i = .wrDataWord w := by
  cases i with
  | wrDataByte w => exact .inl ⟨w, rfl⟩
  | wrDataWord w => exact .inr ⟨w, rfl⟩
  | _ => exact absurd rfl h

theorem ne_init_of_deliveredBytes {i : Instr} (h : deliveredBytes i ≠ []) (ign : BitVec 28) : i ≠ .wrCtrlInit ign := by
  rintro rfl
  exact h rfl

/-- A write that delivers bytes is absorbed, or rejected and the computation has failed. -/
theorem delivered_or_failed {i : Instr} (h : c.Absorbed m) (hi : deliveredBytes i ≠ []) :
    Delivered m (deliveredBytes i) (performed i c) ∨ (performed i c).Failed := by
  cases hd : decidingError i c with
  | some x =>
    obtain ⟨k, e⟩ := x
    have hperformed : performed i c = reject k e c :=
      performed_of_writeDone fun s hs => hs ▸ exec_of_decidingError (hs ▸ h.idle) (hs ▸ hd)
    rw [hperformed]
    exact .inr (reject_failed k e h.mode h.idle)
  | none =>
    left
    obtain ⟨w, rfl⟩ | ⟨w, rfl⟩ := dataWrite_of_deliveredBytes hi
    · exact delivered_dataByte h hd
    · exact delivered_dataWord h hd

/-- Any mix of writes that deliver bytes and then FINALIZE make a computation, or it fails. -/
theorem completes_or_failed {ws : List Instr} (hws : ∀ i ∈ ws, deliveredBytes i ≠ []) (h : c.Absorbed m) :
    Completes c ((ws ++ pseudoFinalize).map encode) m (m ++ ws.flatMap deliveredBytes) ∨
    (finalCore c ((ws ++ pseudoFinalize).map encode)).mode = .failed := by
  induction ws generalizing c m with
  | nil =>
    rw [List.flatMap_nil, List.append_nil]
    exact .inl (completes_finalize 0 h)
  | cons i ws ih =>
    obtain ⟨hi, hrest⟩ := List.forall_mem_cons.mp hws
    rw [List.cons_append, List.map_cons, List.flatMap_cons, ← List.append_assoc]
    rcases delivered_or_failed h hi with hd | hd
    · refine (ih hrest hd.absorbed).imp (completes_cons h.idle hd) fun hfailed => ?_
      rwa [finalCore, decode_encode, drained_of_idle h.idle, ← finalCore_drained]
    · right
      rw [finalCore, decode_encode, drained_of_idle h.idle]
      refine finalCore_failed hd (List.forall_mem_append.mpr ⟨fun j hj => ne_init_of_deliveredBytes (hrest j hj), ?_⟩)
      rintro j hj ign rfl
      simp [pseudoFinalize] at hj

end

/-- INIT, any mix of writes that deliver bytes, and FINALIZE: where the run comes to rest in FINALIZED, nothing
failed. -/
theorem computation_completes {s t : State} {ws : List Instr} {n : Nat} (hb : s.core.busy = false) (hr : s.noReset)
    (hws : ∀ i ∈ ws, deliveredBytes i ≠ []) (hp : s.pending = (pseudoInit ++ ws ++ pseudoFinalize).map encode)
    (ht : reaches n s t) (hq : t.quiet) (hm : t.core.mode = .finalized) :
    Completes s.core s.pending [] (ws.flatMap deliveredBytes) := by
  have hinit : performed (.wrCtrlInit 0) s.core = initCore s.core :=
    performed_of_writeDone fun u hu => hu ▸ exec_wrCtrlInit_idle 0 (hu ▸ hb)
  have hpending : s.pending = encode (.wrCtrlInit 0) :: (ws ++ pseudoFinalize).map encode := by
    rw [hp, List.append_assoc, List.map_append]
    rfl
  have hfinal : finalCore s.core s.pending = finalCore (initCore s.core) ((ws ++ pseudoFinalize).map encode) := by
    rw [hpending, finalCore, decode_encode, drained_of_idle hb, hinit]
  have hblocks : blocksOf s.core s.pending = blocksOf (initCore s.core) ((ws ++ pseudoFinalize).map encode) := by
    rw [hpending, blocksOf, decode_encode, drained_of_idle hb, hinit, blocksDue_of_idle hb,
      newBlock_of_not_start _ (atBlockStart_of_idle ((initCore_busy _).trans hb))]
    rfl
  rcases completes_or_failed hws (initCore_absorbed hb) with h | h
  · exact ⟨h.short, hfinal ▸ h.hashed, hblocks ▸ h.started⟩
  · rw [← hfinal, ← core_eq_finalCore hr ht hq, hm] at h
    cases h

/-- Settles O57: the blocks that the run started are those of the computation. -/
theorem startedBlocksAreThePadding : Obligations.StartedBlocksAreThePadding := by
  intro s t ws bs n hb hr hws hp ht hq hm hpad
  have h := computation_completes hb hr hws hp ht hq hm
  rw [startedBlocks_eq_blocksOf hr ht hq, pad_eq_some hpad]
  exact h.started

/-- Settles O58: the core in which the run rests is the final one of the computation. -/
theorem finalizedHashIsTheDigest : Obligations.FinalizedHashIsTheDigest := by
  intro s t ws n hb hr hws hp ht hq hm
  have h := computation_completes hb hr hws hp ht hq hm
  rw [digest_eq h.short, core_eq_finalCore hr ht hq, h.hashed.hash]

end Sys2Proof.Machine
end
